-- ==== Sys2Proof/Word.lean ====
section
/-! DEFINITION. The word types of the 2410 and a pair indexed by the two master ports. -/

namespace Sys2Proof

/-- One byte on one byte lane (spec/00 "Words, lanes and addresses"). -/
abbrev Byte := BitVec 8

/-- One word: lane k holds bits 8k+7 to 8k. -/
abbrev Word := BitVec 32

/-- A word address, 0h to FFFFFh. -/
abbrev WAddr := BitVec 20

/-- A set of byte lanes, bit k for lane k: the byte enables of an access. -/
abbrev Lanes := BitVec 4

/-- A Timebase value in microseconds, modulo 2^32 (R171). -/
abbrev Time := BitVec 32

/-- A 16-bit count or generation (spec/00 "Numbers and names"). -/
abbrev Count := BitVec 16

/-- A byte order: of a port (R26) or of the image (R141). -/
inductive ByteOrder where
  | little
  | big
deriving DecidableEq, Repr, Inhabited

/-- The two master ports; ring A and ring B are named by them too. -/
inductive Port where
  | a
  | b
deriving DecidableEq, Repr, Inhabited

/-- The port that is not this one. -/
def Port.other : Port → Port
  | .a => .b
  | .b => .a

/-- The direction of an access or of a word access on the memory bus. -/
inductive Direction where
  | read
  | write
deriving DecidableEq, Repr, Inhabited

/-- One item for port A and one for port B. -/
structure Both (α : Type) where
  a : α
  b : α
deriving DecidableEq, Repr, Inhabited

/-- The item of a port. -/
def Both.get {α : Type} (x : Both α) : Port → α
  | .a => x.a
  | .b => x.b

/-- The pair with one port's item replaced. -/
def Both.set {α : Type} (x : Both α) (p : Port) (v : α) : Both α :=
  match p with
  | .a => { x with a := v }
  | .b => { x with b := v }

/-- The same item for both ports. -/
def Both.same {α : Type} (v : α) : Both α := { a := v, b := v }

@[simp] theorem Both.get_set_self {α : Type} (x : Both α) (p : Port) (v : α) :
    (x.set p v).get p = v := by cases p <;> rfl

@[simp] theorem Both.get_set_other {α : Type} (x : Both α) (p : Port) (v : α) :
    (x.set p v).get p.other = x.get p.other := by cases p <;> rfl

theorem Both.get_set_ne {α : Type} (x : Both α) {p q : Port} (v : α) (h : q ≠ p) :
    (x.set p v).get q = x.get q := by cases p <;> cases q <;> first | rfl | exact absurd rfl h

@[simp] theorem Both.get_same {α : Type} (v : α) (p : Port) : (Both.same v).get p = v := by
  cases p <;> rfl

@[simp] theorem Port.other_ne (p : Port) : p.other ≠ p := by cases p <;> decide

@[simp] theorem Port.other_other (p : Port) : p.other.other = p := by cases p <;> rfl

end Sys2Proof
end

