-- ==== Sys2Proof/Syntax.lean ====
section
/-! DEFINITION. The commands of the block: one constructor for each row of spec/opcode_table.json. -/

namespace Sys2Proof

/-- The memory's answer to the presented word access (R103, R174). -/
structure Answer where
  /-- As the operation ends, the arbiter grants a waiting claim before what the end leads to: the Notice
  Unit's claim for what it has raised, or the entry of LOADING (R100, R143). Read by the rows whose end
  leads to such. -/
  grantFirst : Bool := false
  /-- M_ACK stays asserted after the answer, until ACKNOWLEDGE_RELEASED. -/
  held : Bool
  /-- `none`: the memory answers this access. `some d`: the acknowledge is the late one of an
  abandoned access, with `d` on the data lines; the part takes it as the answer (R103). -/
  late : Option Word
deriving DecidableEq, Repr, Inhabited

/-- How the last status word write of REPORTING ends (R158). -/
inductive WriteEnd where
  | completes (ans : Answer)
  | expires
deriving DecidableEq, Repr

/-- An event that reaches a port at the moment LOADING is entered, is taken before it, and whose
notice is received after it, as a deferred one (R136, R143, R170). -/
inductive EntryEvent where
  /-- The hold limit of the port's access (R168). -/
  | hold (p : Port)
  /-- The session limit of an OPEN session (R53). -/
  | session (p : Port) (window : Nat) (record : Nat)
  /-- An access arrives, and is classified (R10, R143). -/
  | access (p : Port) (addr : WAddr) (dir : Direction) (be : Lanes) (data : Word)
deriving DecidableEq, Repr

/-- A block that raises notices at the moment LOADING is entered (R119): a port engine, or the Notice
Unit itself, which raises BAD_CONSUMER (R133). -/
inductive Source where
  | engine (p : Port)
  | noticeUnit
deriving DecidableEq, Repr

/-- What meets at the moment LOADING is entered, in the order in which it is taken: the spec leaves it
open (R119, R136, R170). -/
structure EntryOrder where
  /-- The events taken first, whose notices are received as deferred ones. -/
  events : List EntryEvent
  /-- From which block's notices the Notice Unit receives each next one (R119). -/
  turns : List Source
deriving DecidableEq, Repr, Inhabited

/-- When the loader's notice of R159 is received, among the two held accesses (R160). -/
inductive NoticePlace where
  | first
  | between
  | last
deriving DecidableEq, Repr, Inhabited

/-- The order in which the held accesses and the loader's notice are taken at the end of a load, and
where the arbiter grants a waiting claim among them: the spec leaves both open (R100, R160). -/
structure EndOrder where
  /-- The port whose held access is taken first. -/
  port : Port
  /-- The place of the loader's notice. -/
  notice : NoticePlace
  /-- The arbiter grants as the operation ends, before its end leads to a claim (R100). -/
  grantAtEnd : Bool := false
  /-- The arbiter grants between the first and the second of the three (R100). -/
  grantAfterFirst : Bool := false
  /-- The arbiter grants between the second and the third of the three (R100). -/
  grantAfterSecond : Bool := false
deriving DecidableEq, Repr, Inhabited

/-- The commands, in the order of spec/opcode_table.json. An access command presents an access at
a port: word address, direction, byte enables, write data (R165). -/
inductive Instr where
  | reset
  | resetRelease (imgBase : BitVec 4) (imgOrd : ByteOrder) (ckSel : BitVec 2)
  | strobeRelease (p : Port)
  | accessInBare (p : Port) (addr : WAddr) (dir : Direction) (be : Lanes) (data : Word)
  | heldAccess (p : Port) (addr : WAddr) (dir : Direction) (be : Lanes) (data : Word)
  | nullAccess (p : Port) (addr : WAddr) (dir : Direction) (data : Word)
  | recordWrite (p : Port) (addr : WAddr) (be : Lanes) (data : Word)
  | recordRead (p : Port) (addr : WAddr) (be : Lanes)
  | plainAccess (p : Port) (addr : WAddr) (dir : Direction) (be : Lanes) (data : Word)
  | unmappedAccess (p : Port) (addr : WAddr) (dir : Direction) (be : Lanes) (data : Word)
  | ringAccess (p : Port) (addr : WAddr) (dir : Direction) (be : Lanes) (data : Word)
  | consumerWordWrite (p : Port) (addr : WAddr) (be : Lanes) (data : Word)
  | requestWordWrite (p : Port) (addr : WAddr) (be : Lanes) (data : Word)
  | imageWordWrite (p : Port) (addr : WAddr) (be : Lanes) (data : Word)
  | grant
  | wordAccessCompletes (ans : Answer)
  | singleOperationCompletes (ans : Answer)
  | consumerCountTaken (ans : Answer)
  | requestWriteCompletes (ans : Answer) (grantFirst : Bool) (entry : EntryOrder)
  | stampReadCompletes (ans : Answer)
  | commitStampReadCompletes (ans : Answer)
  | commitBurstCompletes (ans : Answer)
  | captureBurstCompletes (ans : Answer)
  | entryBurstCompletes (ans : Answer)
  | fullRingBurstCompletes (ans : Answer)
  | lossReportCompletes (ans : Answer)
  | inProgressWriteCompletes (ans : Answer)
  | drained
  | imageReadCompletes (ans : Answer)
  | ringHeaderWriteCompletes (ans : Answer)
  | doneWriteCompletes (ans : Answer) (order : EndOrder)
  | failureStatusWriteEnds (how : WriteEnd) (order : EndOrder)
  | memoryLimitExpires (order : EndOrder)
  | strayAcknowledge (held : Bool)
  | holdLimitExpires (p : Port)
  | sessionLimitExpires (p : Port) (window : Nat) (record : Nat)
  | captureLimitExpires (p : Port) (window : Nat) (record : Nat)
  | imageWordRead (p : Port) (addr : WAddr) (be : Lanes)
  | timebaseTick
  | acknowledgeReleased
deriving DecidableEq, Repr

end Sys2Proof
end

