-- ==== Sys2Proof/Decode.lean ====
section
/-! DEFINITION. The decoder of the block's command words. spec/opcode_table.json gives no row any
bits, so no word spells a command. -/

namespace Sys2Proof

/-- The command that a word of `nbits` bits spells by the table's bits: none, for the table gives
no row any bits (log entry 18). -/
def decodeTableWord (nbits w : Nat) : Option Instr :=
  match nbits, w with
  | _, _ => none

end Sys2Proof
end

