-- ==== Sys2Proof/Config.lean ====
section
/-! DEFINITION. What the part fixes (table sizes, the limits of BARE) and the free values: what the
spec leaves open while the part goes on. -/

namespace Sys2Proof

/-- How two claims made at the same moment at an idle Memory Port are taken (R100): both before the
arbiter grants, or one first, which is granted at once. -/
inductive ClaimOrder where
  | together
  | first
  | second
deriving DecidableEq, Repr, Inhabited

end Sys2Proof

namespace Sys2Proof.Config

/-- Slots of a Session Table (R35) and of a Capture Table (R76). -/
def tableSlots : Nat := 4

/-- Entries of the pending queue (R119). -/
def queueSlots : Nat := 8

/-- Entries of the Torn Record List (R109). -/
def tornSlots : Nat := 8

/-- The hold limit in force in BARE, in microseconds (R6). -/
def bareHoldLimit : Nat := 5000

/-- The memory limit in force in BARE, in microseconds (R6). -/
def bareMemoryLimit : Nat := 50

/-- The window index that stands for no window in a notice (R2). -/
def noWindow : BitVec 5 := 31

/-- Bytes of the shared memory's address space: 2^20 words of 4 bytes (spec/00). -/
def memoryBytes : Nat := 4194304

/-- What a byte of memory that nothing has written reads as. DESIGN CHOICE, unsafe (log entry 5):
the spec gives the shared memory no contents. -/
def unwrittenByte : Byte := 0

/-- FREE VALUE (log entries 7, 9). The lanes of a word on which a write that expired (R104), was
cut off by RESET (R108) or was ended by a late acknowledge (R103) did change memory. -/
opaque freeLanes : Nat → Lanes

/-- FREE VALUE (log entry 7). A write whose word, or whose consumer count, holds its old or its new
value whole did change it: a commit burst's that expired (R72) or was cut off by RESET (R73), a
notice burst's of the producer word that expired (R107, R128), and a watched write that expired
(R105, R132). -/
opaque freeWhole : Nat → Bool

/-- FREE VALUE (log entry 24). Which of two claims that one arrival, or the release of RESET, makes
together at an idle Memory Port is taken first and granted at once, if either (R100). -/
opaque freeOrder : Nat → ClaimOrder

/-- FREE VALUE (log entry 8). The VALUE of the MEM_TIMEOUT notice of an expired stamp read, which
R44 does not give. -/
opaque freeWord : Nat → Word

end Sys2Proof.Config
end

