-- ==== Sys2Proof/Machine/State.lean ====
section
/-! DEFINITION. State of the 2410 as plain data, its two reason types, and the state after RESET. -/

namespace Sys2Proof.Machine

/-! ## Record Map (spec/01, spec/02) -/

/-- Rights of a port in a window (R2). -/
inductive Rights where
  | none
  | read
  | readWrite
deriving DecidableEq, Repr, Inhabited

/-- The closing condition of a session (R2, R47). -/
inductive Mode where
  | full
  | close
deriving DecidableEq, Repr, Inhabited

/-- The commit policy (R2, R69). -/
inductive Policy where
  | last
  | guarded
deriving DecidableEq, Repr, Inhabited

/-- Element width of a PLAIN window (R2). -/
inductive ElementWidth where
  | one
  | two
  | four
deriving DecidableEq, Repr, Inhabited

/-- What a RECORD window's entry holds beside BASE and the rights (R2). -/
structure RecordSpec where
  reclen : Nat
  reccnt : Nat
  mode : Mode
  policy : Policy
  stamp : Bool
  check : Bool
  layout : Nat
deriving DecidableEq, Repr, Inhabited

/-- KIND, with the fields that kind uses (R2). -/
inductive WindowKind where
  | plain (span : Nat) (ewidth : ElementWidth)
  | record (spec : RecordSpec)
deriving DecidableEq, Repr

/-- An entry of the window table (R2); its position is the window index. -/
structure Window where
  base : WAddr
  kind : WindowKind
  rights : Both Rights
deriving DecidableEq, Repr

/-- The six word patterns (R23): the widths of a word's elements from lane 0 upward. -/
inductive Pattern where
  | p4
  | p22
  | p211
  | p121
  | p112
  | p1111
deriving DecidableEq, Repr, Inhabited

/-- One run of a layout (R22): an element width in bytes and a count of elements. -/
structure Run where
  width : Nat
  count : Nat
deriving DecidableEq, Repr, Inhabited

/-- An entry of the layout table (R22): TOTAL, the runs in use, and the element map derived from
them, one word pattern for each data word (R23). -/
structure Layout where
  total : Nat
  runs : List Run
  patterns : List Pattern
deriving DecidableEq, Repr, Inhabited

/-- Unmapped policy of a port (R5, R19). -/
inductive UnmappedPolicy where
  | pass
  | readOnly
  | refuse
deriving DecidableEq, Repr, Inhabited

/-- The settings entry of a port (R5). -/
structure PortSettings where
  order : ByteOrder
  unmapped : UnmappedPolicy
  thresh : Nat
  loadRight : Bool
deriving DecidableEq, Repr, Inhabited

/-- Ring capacity (R8). -/
inductive Capacity where
  | c8
  | c16
  | c32
  | c64
  | c128
  | c256
deriving DecidableEq, Repr, Inhabited

/-- Placement of a configured ring (R8): BASE and CAP of R121. -/
structure RingPlace where
  base : WAddr
  cap : Capacity
deriving DecidableEq, Repr, Inhabited

/-- The Record Map (R1 to R8). `rings` is `none` for a ring whose capacity is NONE. -/
structure RecordMap where
  windows : List Window
  layouts : List Layout
  settings : Both PortSettings
  sessionLimit : Count
  captureLimit : Count
  holdLimit : Count
  memoryLimit : BitVec 8
  severities : List (BitVec 2)
  rings : Both (Option RingPlace)
deriving DecidableEq, Repr

/-! ## Port engines (spec/01, spec/03, spec/05, spec/09) -/

/-- The lines a processor presents with its strobe (R165). -/
structure Lines where
  addr : WAddr
  dir : Direction
  be : Lanes
  data : Word
deriving DecidableEq, Repr, Inhabited

/-- READY, FAULT and the data lines of a port (R166). The data is present while a read is ended. -/
inductive PortOut where
  | quiet
  | ready (data : Option Word)
  | fault (data : Option Word)
deriving DecidableEq, Repr, Inhabited

/-- The pins of a master port: the strobe with its lines, and the ending lines. -/
structure Pins where
  strobe : Option Lines
  out : PortOut
deriving DecidableEq, Repr, Inhabited

/-- ACCESS (R164): the latched lines and ARRIVED. -/
structure Access where
  addr : WAddr
  dir : Direction
  be : Lanes
  data : Word
  arrived : Time
deriving DecidableEq, Repr, Inhabited

/-- Which IMAGE word (R7, R13). -/
inductive ImageWord where
  | request
  | status
deriving DecidableEq, Repr, Inhabited

/-- Role of a word of a ring region (R8, R13). -/
inductive RingRole where
  | producer
  | consumer
  | entry
deriving DecidableEq, Repr, Inhabited

/-- Role of a word of a record (R3, R13). -/
inductive WordRole where
  | stamp
  | check
  | data (closing : Bool)
deriving DecidableEq, Repr, Inhabited

/-- A classification (R13). -/
inductive Class where
  | image (word : ImageWord)
  | ring (r : Port) (role : RingRole)
  | record (window record offset : Nat) (base : WAddr) (role : WordRole)
  | plain (window : Nat)
  | unmapped
deriving DecidableEq, Repr, Inhabited

/-- CLASS (R164): the classification, the word pattern as the port's ORDER makes it act (R25, R26:
`p1111` moves no lane), and the canonical enables and data (R28, R29). -/
structure Taken where
  cls : Class
  conv : Pattern
  be : Lanes
  data : Word
deriving DecidableEq, Repr, Inhabited

/-- One word of STAGE with its four MASK bits (R36). Bytes whose MASK bit is clear are kept zero. -/
structure Staged where
  mask : Lanes
  bytes : Word
deriving DecidableEq, Repr, Inhabited

/-- What a single read or single write is for. -/
inductive Purpose where
  /-- It ends its access and does nothing else. -/
  | ordinary
  /-- An own read, with the staged bytes taken at classification (R50, R51). -/
  | ownRead (staged : Staged)
  /-- A valid watched write to the consumer word of a ring, with its offered count (R131). -/
  | watched (ring : Port) (count : Count)
  /-- A permitted request write, with its N (R142). -/
  | request (n : Nat)
deriving DecidableEq, Repr, Inhabited

/-- The operation a port engine claims for its access (R97). -/
inductive Job where
  | single (purpose : Purpose)
  | stampRead
  | capture
  | commit
deriving DecidableEq, Repr, Inhabited

/-- CLAIM (R164); WAITING is the engine's claim in CLAIMS (R96). -/
inductive ClaimState where
  | waiting
  | granted
deriving DecidableEq, Repr, Inhabited

/-- ESTATE with the items that state holds (R164). CLASS is absent in BARE. -/
inductive EState where
  | idle
  | held (acc : Access)
  | inMemory (acc : Access) (taken : Option Taken) (job : Job) (claim : ClaimState)
deriving DecidableEq, Repr, Inhabited

/-- STATE of a session (R37). -/
inductive SessionState where
  | opening
  | open
  | closing
deriving DecidableEq, Repr, Inhabited

/-- A session (R36). `stage` has one item for each word offset of the record. -/
structure Session where
  window : Nat
  record : Nat
  base : WAddr
  state : SessionState
  stage : List Staged
  baseGen : Option Count
  opened : Option Time
deriving DecidableEq, Repr, Inhabited

/-- What a LIVE capture holds (R77). -/
structure Live where
  bad : Bool
  words : List Word
  filled : Time
deriving DecidableEq, Repr, Inhabited

/-- A capture (R77): FILLING while `live` is `none`. -/
structure Capture where
  window : Nat
  record : Nat
  base : WAddr
  live : Option Live
  readMask : BitVec 32
deriving DecidableEq, Repr, Inhabited

/-- A port engine (R164) with its Session Table (R35) and Capture Table (R76). The lists keep the
opening order (R37) and the fill order (R78): an entry that is not yet in its order stands last. -/
structure Engine where
  estate : EState
  sessions : List Session
  captures : List Capture
deriving DecidableEq, Repr, Inhabited

/-! ## Memory Port and Torn Record List (spec/06) -/

/-- The rotation pointer (R96) and the three claimants of the rotation (R99). -/
inductive Rotor where
  | a
  | b
  | notice
deriving DecidableEq, Repr, Inhabited

/-- A word access (R97). -/
structure WordAccess where
  addr : WAddr
  dir : Direction
  be : Lanes
  data : Word
deriving DecidableEq, Repr, Inhabited

/-- The granted operation and its claimant (R97). A notice burst's form and carried amount are
fixed at the grant (R124, R126, R127). -/
inductive Op where
  | single (p : Port)
  | stampRead (p : Port)
  | capture (p : Port)
  | commit (p : Port) (writing : Bool)
  | entry (ring : Port) (carried : Count)
  | fullRing (ring : Port) (carried : Count)
  | lossReport (ring : Port) (carried : Count)
  | imageRead
  | ringHeader (ring : Port)
  | status
deriving DecidableEq, Repr, Inhabited

/-- GRANTED and TIMER (R96): the word accesses still to make, the one in progress first; how many
have completed; the words read so far; when the one in progress was issued and the memory limit
then in force (R103); whether it has been presented, or waits for M_ACK to be released (R174). -/
structure Granted where
  op : Op
  todo : List WordAccess
  done : Nat
  got : List Word
  timer : Time
  limit : Nat
  presented : Bool
deriving DecidableEq, Repr, Inhabited

/-- An entry of the Torn Record List (R109). -/
structure TornEntry where
  base : WAddr
  window : Nat
deriving DecidableEq, Repr, Inhabited

/-! ## Notice Unit (spec/07) -/

/-- The kinds of notice (R117). -/
inductive NoticeKind where
  | loadDone
  | loadFailed
  | refused
  | abandoned
  | stale
  | checkMismatch
  | torn
  | suspect
  | memTimeout
  | holdTimeout
  | badConsumer
deriving DecidableEq, Repr, Inhabited

/-- A notice (R116). `port` is `none` for no port. -/
structure Notice where
  kind : NoticeKind
  port : Option Port
  severity : BitVec 2
  detail : BitVec 8
  window : BitVec 5
  address : WAddr
  value : Word
  time : Time
deriving DecidableEq, Repr, Inhabited

/-- An entry of the pending queue (R119). -/
structure QueueEntry where
  notice : Notice
  dest : Both Bool
  handled : Both Bool
  deferred : Bool
deriving DecidableEq, Repr, Inhabited

/-- The items of a ring (R121) beside BASE and CAP, which are the map's `RingPlace`. -/
structure Ring where
  prod : Count
  cons : Count
  lost : Count
  plost : Count
  lrep : Bool
  shadow : List (Option (BitVec 2))
  watch : Option Port
deriving DecidableEq, Repr, Inhabited

/-- The Notice Unit's waiting claim (R123): the ring is fixed when the claim is made. -/
inductive NoticeClaim where
  | lossReport (ring : Port)
  | head (ring : Port)
deriving DecidableEq, Repr, Inhabited

/-! ## Configuration Loader (spec/08) -/

/-- The result codes (R162). -/
inductive LoadResult where
  | inProgress
  | done
  | length
  | format
  | check
  | range
  | overlap
  | layout
  | policy
  | ring
  | memory
deriving DecidableEq, Repr, Inhabited

/-- PHASE, with CANDIDATE while INSTALLING (R139). -/
inductive Phase where
  | starting
  | draining
  | reading
  | installing (candidate : RecordMap)
  | reporting
deriving DecidableEq, Repr

/-- What the loader holds while LOADING (R139). FROM is BARE when `from?` is `none`, and ACTIVE
with that map in force otherwise. -/
structure Load where
  from? : Option RecordMap
  phase : Phase
  reqPort : Port
  reqN : Nat
deriving DecidableEq, Repr

/-- STATE (R139), with the Record Map of that state. -/
inductive PartState where
  | bare
  | loading (ld : Load)
  | active (m : RecordMap)
deriving DecidableEq, Repr

/-- The loader's waiting claim (R98); a status word write carries the word it writes (R162). -/
inductive LoaderClaim where
  | status (word : Word)
  | imageRead
  | ringHeader (ring : Port)
deriving DecidableEq, Repr, Inhabited

/-- The straps latched at the release of RESET (R141). -/
structure Straps where
  imgBase : BitVec 4
  imgOrd : ByteOrder
  ckSel : BitVec 2
deriving DecidableEq, Repr, Inhabited

/-- The shared memory: bytes by byte address, in one canonical form (`Memory.wf`). -/
abbrev Memory := List Host.Cell

end Sys2Proof.Machine

namespace Sys2Proof.Machine

/-- The state of the part, of its pins, and of the shared memory that only the part reaches.
INVENTORY.md names the rule of each field. -/
structure State where
  pending : List Instr
  resetAsserted : Bool
  pins : Both Pins
  ackHigh : Bool
  attn : Both Bool
  timebase : Time
  refPeriods : Nat
  straps : Straps
  part : PartState
  result : LoadResult
  seq : BitVec 8
  tornDisc : BitVec 8
  loaderClaim : Option LoaderClaim
  engines : Both Engine
  pointer : Rotor
  granted : Option Granted
  torn : List TornEntry
  suspect : List Bool
  queue : List QueueEntry
  rings : Both Ring
  deferredLost : Both Count
  noticeClaim : Option NoticeClaim
  mem : Memory
  freeCount : Nat
deriving DecidableEq, Repr

/-- Why the machine stops with a fault. It has no constructor: the spec gives the block no event
that stops it, and no meaning raises one. Safe. -/
inductive Fault where
deriving DecidableEq, Repr

/-- Why a command is refused. -/
inductive Refusal where
  /-- Raised by exec's arm of a row that has no meaning yet, and by nothing else; no arm of this
  model raises it. Safe: nothing can be proved of such a row. -/
  | notModelled (mnemonic : String)
deriving DecidableEq, Repr

/-- A port's pins with the strobe deasserted and no ending line asserted. -/
def Pins.quiet : Pins := { strobe := none, out := .quiet }

/-- A port engine after RESET (R35, R76, R164). -/
def Engine.empty : Engine := { estate := .idle, sessions := [], captures := [] }

/-- The items of a ring that is not configured (R121): none of them is kept. -/
def Ring.unconfigured : Ring :=
  { prod := 0, cons := 0, lost := 0, plost := 0, lrep := false, shadow := [], watch := none }

/-- The part just after RESET is released: R35, R76, R96, R109, R119, R121, R139, R164, R171. The
straps, the strobes and M_ACK are input pins, for which the spec gives no value (DESIGN CHOICE, log
entry 6); memory lists nothing (log entry 5). -/
def State.reset : State :=
  { pending := []
    resetAsserted := false
    pins := Both.same Pins.quiet
    ackHigh := false
    attn := Both.same false
    timebase := 0
    refPeriods := 0
    straps := { imgBase := 0, imgOrd := .little, ckSel := 0 }
    part := .bare
    result := .inProgress
    seq := 0
    tornDisc := 0
    loaderClaim := none
    engines := Both.same Engine.empty
    pointer := .a
    granted := none
    torn := []
    suspect := []
    queue := []
    rings := Both.same Ring.unconfigured
    deferredLost := Both.same 0
    noticeClaim := none
    mem := []
    freeCount := 0 }

end Sys2Proof.Machine
end

