-- ==== Sys2Proof/Machine/Operands.lean ====
section
/-! DEFINITION. Lanes, byte orders, word patterns and bit fields: the forms in which words reach
the part and leave it (spec/02, spec/10). -/

namespace Sys2Proof.Machine

/-! ## Lanes -/

/-- The byte on lane `k` of a word. -/
def lane (w : Word) (k : Nat) : Byte := w.extractLsb' (8 * k) 8

/-- The word with these bytes on lanes 0 to 3. -/
def ofLanes (b0 b1 b2 b3 : Byte) : Word := b3 ++ b2 ++ b1 ++ b0

/-- The lane set with these lanes. -/
def lanesOf (e0 e1 e2 e3 : Bool) : Lanes :=
  BitVec.ofBool e3 ++ BitVec.ofBool e2 ++ BitVec.ofBool e1 ++ BitVec.ofBool e0

/-- All four lanes. -/
def allLanes : Lanes := 15

/-- Lane `k` is enabled. -/
def enabled (be : Lanes) (k : Nat) : Bool := be.getLsbD k

/-- The bytes of `new` on the lanes of `be`, those of `old` on the others. -/
def mergeLanes (be : Lanes) (new old : Word) : Word :=
  ofLanes (if enabled be 0 then lane new 0 else lane old 0)
    (if enabled be 1 then lane new 1 else lane old 1)
    (if enabled be 2 then lane new 2 else lane old 2)
    (if enabled be 3 then lane new 3 else lane old 3)

/-- The bytes of a word on the lanes of `be`, zero on the others (R18). -/
def pickLanes (be : Lanes) (w : Word) : Word := mergeLanes be w 0

/-! ## Word patterns (R23, R25 to R27) -/

/-- The element widths of a word pattern, from lane 0 upward (R23). -/
def Pattern.widths : Pattern → List Nat
  | .p4 => [4]
  | .p22 => [2, 2]
  | .p211 => [2, 1, 1]
  | .p121 => [1, 2, 1]
  | .p112 => [1, 1, 2]
  | .p1111 => [1, 1, 1, 1]

/-- The word pattern with these element widths, if it is one of the six (R23). -/
def patternOf : List Nat → Option Pattern
  | [4] => some .p4
  | [2, 2] => some .p22
  | [2, 1, 1] => some .p211
  | [1, 2, 1] => some .p121
  | [1, 1, 2] => some .p112
  | [1, 1, 1, 1] => some .p1111
  | _ => none

/-- R27: within the element on lanes s to s + w - 1, lane k moves to lane 2s + w - 1 - k. -/
def mirrorWithin : List Nat → Nat → Nat → Nat
  | [], _, k => k
  | w :: ws, s, k => if k < s + w then 2 * s + w - 1 - k else mirrorWithin ws (s + w) k

/-- The lane that lane `k` is exchanged with under a word pattern (R27). -/
def Pattern.mirrorLane (pat : Pattern) (k : Nat) : Nat := mirrorWithin pat.widths 0 k

/-- A word with its lanes mirrored within each element (R27). -/
def mirrorWord (pat : Pattern) (w : Word) : Word :=
  ofLanes (lane w (pat.mirrorLane 0)) (lane w (pat.mirrorLane 1)) (lane w (pat.mirrorLane 2))
    (lane w (pat.mirrorLane 3))

/-- Byte enables mirrored as their bytes are (R27). -/
def mirrorLanes (pat : Pattern) (be : Lanes) : Lanes :=
  lanesOf (enabled be (pat.mirrorLane 0)) (enabled be (pat.mirrorLane 1))
    (enabled be (pat.mirrorLane 2)) (enabled be (pat.mirrorLane 3))

/-- The word pattern as a port's ORDER makes it act: a LITTLE port moves no lane (R26). -/
def Pattern.underOrder (pat : Pattern) : ByteOrder → Pattern
  | .little => .p1111
  | .big => pat

/-- The pattern of every word of a PLAIN window (R25). -/
def ElementWidth.pattern : ElementWidth → Pattern
  | .one => .p1111
  | .two => .p22
  | .four => .p4

/-! ## Layouts (R22, R23) -/

/-- The element widths a list of runs describes, in order (R23). -/
def runElements : List Run → List Nat
  | [] => []
  | r :: rs => List.replicate r.count r.width ++ runElements rs

/-- Cuts element widths into word patterns; `open_` holds the widths of the word being filled and
`used` their sum. `none` if an element straddles a word boundary (R24) or the last word is not
filled. -/
def cutWords : List Nat → List Nat → Nat → Option (List Pattern)
  | [], open_, _ => if open_ = [] then some [] else none
  | w :: ws, open_, used =>
    if used + w < 4 then cutWords ws (open_ ++ [w]) (used + w)
    else if used + w = 4 then
      match patternOf (open_ ++ [w]), cutWords ws [] 0 with
      | some pat, some rest => some (pat :: rest)
      | _, _ => none
    else none

/-- The bytes a list of runs describes (R24). -/
def runBytes : List Run → Nat
  | [] => 0
  | r :: rs => r.width * r.count + runBytes rs

/-! ## Bit fields and the image's byte order (spec/10) -/

/-- Bits `lo + len - 1` down to `lo` of a word, as a number. -/
def bits (w : Word) (lo len : Nat) : Nat := (w.extractLsb' lo len).toNat

/-- The low 16 bits of a word. -/
def lowHalf (w : Word) : Count := w.extractLsb' 0 16

/-- The high 16 bits of a word. -/
def highHalf (w : Word) : Count := w.extractLsb' 16 16

/-- The word with these halves. -/
def ofHalves (high low : Count) : Word := high ++ low

/-- A raw word read as a value in a byte order, and a value written as a raw word (R33). -/
def inOrder (o : ByteOrder) (w : Word) : Word := mirrorWord (Pattern.p4.underOrder o) w

/-- R15: the N of a write in request form, and `none` of any other write. -/
def requestLength (o : ByteOrder) (be : Lanes) (raw : Word) : Option Nat :=
  let v := inOrder o raw
  if be = allLanes ∧ 13 ≤ (lowHalf v).toNat ∧ (lowHalf v).toNat ≤ 149 ∧ highHalf v = ~~~(lowHalf v)
  then some (lowHalf v).toNat else none

/-- The image base: IMGBASE × 10000h (R7). -/
def Straps.imageBase (st : Straps) : WAddr := st.imgBase ++ (0 : BitVec 16)

/-- The successor of a generation (spec/00, R66): 65,535 and 0 are each followed by 1. -/
def successor (g : Count) : Count := if g = 65535 then 1 else g + 1

/-- A stamp word (R66, R178): the generation and the last writer. -/
def stampWord (g : Count) (writer : Port) : Word :=
  ofHalves (match writer with | .a => 0 | .b => 1) g

/-- The code of a result (R162). -/
def LoadResult.code : LoadResult → BitVec 8
  | .inProgress => 0
  | .done => 1
  | .length => 2
  | .format => 3
  | .check => 4
  | .range => 5
  | .overlap => 6
  | .layout => 7
  | .policy => 8
  | .ring => 9
  | .memory => 10

/-- The status word as a value: RESULT, WCOUNT, SEQ, TORN from bit 0 upward (spec/10, R162). -/
def statusValue (r : LoadResult) (windows seq torn : BitVec 8) : Word :=
  torn ++ seq ++ windows ++ r.code

/-- The code of a notice kind (R117). -/
def NoticeKind.code : NoticeKind → Nat
  | .loadDone => 1
  | .loadFailed => 2
  | .refused => 3
  | .abandoned => 4
  | .stale => 5
  | .checkMismatch => 6
  | .torn => 7
  | .suspect => 8
  | .memTimeout => 9
  | .holdTimeout => 10
  | .badConsumer => 11

/-- The PORT field of a notice record (spec/10). -/
def portField : Option Port → BitVec 2
  | some .a => 0
  | some .b => 1
  | none => 2

/-- The four words of a notice record (spec/10, R179). -/
def Notice.words (n : Notice) : List Word :=
  [ (0 : BitVec 11) ++ n.window ++ n.detail ++ n.severity ++ portField n.port
      ++ BitVec.ofNat 4 n.kind.code,
    (0 : BitVec 12) ++ n.address,
    n.value,
    n.time ]

/-- The entries of a capacity (R8). -/
def Capacity.entries : Capacity → Nat
  | .c8 => 8
  | .c16 => 16
  | .c32 => 32
  | .c64 => 64
  | .c128 => 128
  | .c256 => 256

/-- Addition of counts that saturates at 65,535 (spec/00). -/
def satAdd (x y : Count) : Count := if x.toNat + y.toNat < 65536 then x + y else 65535

/-- Periods of the reference clock in one Timebase microsecond (R172). -/
def Straps.periods (st : Straps) : Nat :=
  if st.ckSel = 0 then 8 else if st.ckSel = 1 then 16 else 32

/-- An age: the Timebase less a stored value, modulo 2^32 (R171). -/
def age (now since : Time) : Nat := (now - since).toNat

end Sys2Proof.Machine
end

