-- ==== Sys2Proof/Machine/Check.lean ====
section
/-! DEFINITION. The CRC-32 of check words and of the image check (R67). -/

namespace Sys2Proof.Machine

/-- One of the eight steps of the register for a byte (R67). -/
def crcStep (r : Word) : Word :=
  if r.getLsbD 0 then (r >>> 1) ^^^ 0xEDB88320#32 else r >>> 1

/-- The register after a byte (R67). -/
def crcByte (r : Word) (b : Byte) : Word :=
  let r0 := r ^^^ b.setWidth 32
  crcStep (crcStep (crcStep (crcStep (crcStep (crcStep (crcStep (crcStep r0)))))))

/-- The register after a list of bytes. -/
def crcBytes : Word → List Byte → Word
  | r, [] => r
  | r, b :: bs => crcBytes (crcByte r b) bs

/-- The bytes of words, lanes 0 to 3 of each in turn: ascending byte address (R67). -/
def wordBytes : List Word → List Byte
  | [] => []
  | w :: ws => lane w 0 :: lane w 1 :: lane w 2 :: lane w 3 :: wordBytes ws

/-- The CRC-32 of the bytes of a list of words (R67). -/
def crc32 (ws : List Word) : Word := ~~~(crcBytes 0xFFFFFFFF#32 (wordBytes ws))

end Sys2Proof.Machine
end

