-- ==== Sys2Proof/Machine/Ops.lean ====
section
/-! DEFINITION. Named operations over State: what is in force, the shared memory, the word accesses
of the memory bus, and the ending of a port's access. -/

namespace Sys2Proof.Machine

/-! ## One port's share of State -/

/-- The state with one port's engine replaced. -/
def State.setEngine (s : State) (p : Port) (e : Engine) : State :=
  { s with engines := s.engines.set p e }

/-- The state with one port's pins replaced. -/
def State.setPins (s : State) (p : Port) (x : Pins) : State := { s with pins := s.pins.set p x }

/-- The state with one ring's items replaced. -/
def State.setRing (s : State) (p : Port) (r : Ring) : State := { s with rings := s.rings.set p r }

/-- The state with one port's engine state replaced; its tables stay. -/
def State.setEState (s : State) (p : Port) (e : EState) : State :=
  s.setEngine p { s.engines.get p with estate := e }

/-- The state with one port's Session Table replaced. -/
def State.setSessions (s : State) (p : Port) (t : List Session) : State :=
  s.setEngine p { s.engines.get p with sessions := t }

/-- The state with one port's Capture Table replaced. -/
def State.setCaptures (s : State) (p : Port) (t : List Capture) : State :=
  s.setEngine p { s.engines.get p with captures := t }

/-! ## What is in force -/

/-- The map in force: none in BARE and in a load from BARE, the old map in a load from ACTIVE
(R1, R6, R145). -/
def State.map (s : State) : Option RecordMap :=
  match s.part with
  | .bare => none
  | .loading ld => ld.from?
  | .active m => some m

/-- The part is LOADING. -/
def State.isLoading (s : State) : Bool :=
  match s.part with
  | .loading _ => true
  | _ => false

/-- The hold limit in force (R167). -/
def State.holdLimit (s : State) : Nat :=
  match s.map with
  | none => Config.bareHoldLimit
  | some m => m.holdLimit.toNat

/-- The memory limit in force (R103). -/
def State.memoryLimit (s : State) : Nat :=
  match s.map with
  | none => Config.bareMemoryLimit
  | some m => m.memoryLimit.toNat

/-- The session limit in force (R53); 0 is no limit. -/
def State.sessionLimit (s : State) : Nat :=
  match s.map with
  | none => 0
  | some m => m.sessionLimit.toNat

/-- The capture limit in force (R89); 0 is no limit. -/
def State.captureLimit (s : State) : Nat :=
  match s.map with
  | none => 0
  | some m => m.captureLimit.toNat

/-- The placement of a ring in the map in force, `none` if it is not configured (R121). -/
def State.ringPlace (s : State) (p : Port) : Option RingPlace :=
  match s.map with
  | none => none
  | some m => m.rings.get p

/-- The record fields of a window, all zero for a window that is no RECORD window of the map. -/
def RecordMap.spec (m : RecordMap) (w : Nat) : RecordSpec :=
  match m.windows[w]? with
  | some { base := _, kind := .record spec, rights := _ } => spec
  | _ => default

/-- The record fields of a window of the map in force. -/
def State.spec (s : State) (w : Nat) : RecordSpec :=
  match s.map with
  | none => default
  | some m => m.spec w

/-- The engine's claim waits at the Memory Port (R96, R164). -/
def Engine.waiting (e : Engine) : Bool :=
  match e.estate with
  | .inMemory _ _ _ .waiting => true
  | _ => false

/-! ## The shared memory -/

/-- The byte at a byte address; one that is not listed reads as `Config.unwrittenByte`. -/
def Memory.readByte : Memory → Nat → Byte
  | [], _ => Config.unwrittenByte
  | (k, v) :: rest, a => if k = a then v else Memory.readByte rest a

/-- The memory with one byte written, in canonical form again. -/
def Memory.writeByte : Memory → Nat → Byte → Memory
  | [], a, b => if b = Config.unwrittenByte then [] else [(a, b)]
  | (k, v) :: rest, a, b =>
    if a < k then
      if b = Config.unwrittenByte then (k, v) :: rest else (a, b) :: (k, v) :: rest
    else if a = k then
      if b = Config.unwrittenByte then rest else (a, b) :: rest
    else (k, v) :: Memory.writeByte rest a b

/-- Addresses strictly rise from `lo` on and lie in the address space, and no entry equals what an
unlisted byte reads as. -/
def Memory.wfFrom : Nat → Memory → Bool
  | _, [] => true
  | lo, (k, v) :: rest =>
    decide (lo ≤ k) && decide (k < Config.memoryBytes) && (v != Config.unwrittenByte)
      && Memory.wfFrom (k + 1) rest

/-- The memory is in canonical form. -/
def Memory.wf (m : Memory) : Bool := Memory.wfFrom 0 m

/-- The byte address of a lane of a word: 4w + k (spec/00). -/
def byteAddress (w : WAddr) (k : Nat) : Nat := 4 * w.toNat + k

/-- The word at a word address, as it stands. -/
def Memory.readWord (m : Memory) (w : WAddr) : Word :=
  ofLanes (m.readByte (byteAddress w 0)) (m.readByte (byteAddress w 1))
    (m.readByte (byteAddress w 2)) (m.readByte (byteAddress w 3))

/-- The memory with one lane of a word written if it is enabled. -/
def Memory.writeLane (m : Memory) (w : WAddr) (be : Lanes) (d : Word) (k : Nat) : Memory :=
  if enabled be k then m.writeByte (byteAddress w k) (lane d k) else m

/-- The memory with a word written on its enabled lanes alone (R97). -/
def Memory.writeWord (m : Memory) (w : WAddr) (be : Lanes) (d : Word) : Memory :=
  (((m.writeLane w be d 0).writeLane w be d 1).writeLane w be d 2).writeLane w be d 3

/-! ## Word accesses (R97, R101, R103, R174) -/

/-- A read of a whole word. -/
def readAt (a : WAddr) : WordAccess := { addr := a, dir := .read, be := allLanes, data := 0 }

/-- A write of a whole word. -/
def writeAt (a : WAddr) (d : Word) : WordAccess :=
  { addr := a, dir := .write, be := allLanes, data := d }

/-- Reads of `n` consecutive words (R82, R149). -/
def readsFrom (a : WAddr) : Nat → List WordAccess
  | 0 => []
  | n + 1 => readAt a :: readsFrom (a + 1) n

/-- Writes of consecutive words. -/
def writesFrom (a : WAddr) : List Word → List WordAccess
  | [] => []
  | d :: ds => writeAt a d :: writesFrom (a + 1) ds

/-- The first word access of `todo` is issued: TIMER takes the Timebase, with the memory limit in
force (R103), and it is presented if M_ACK is low (R174). -/
def State.issue (s : State) (op : Op) (todo : List WordAccess) (done : Nat) (got : List Word) :
    State :=
  let g : Granted :=
    { op := op, todo := todo, done := done, got := got, timer := s.timebase,
      limit := s.memoryLimit, presented := !s.ackHigh }
  { s with granted := some g }

/-- The word access on the memory bus: issued and presented (R174). -/
def State.presented (s : State) : Option (Granted × WordAccess) :=
  match s.granted with
  | none => none
  | some g =>
    match g.presented, g.todo with
    | true, w :: _ => some (g, w)
    | _, _ => none

/-- A write that lands on these of its enabled lanes, by a free value that is used up. -/
def State.landOn (s : State) (w : WordAccess) (lanes : Lanes) : State :=
  match w.dir with
  | .read => s
  | .write =>
    { s with
      mem := s.mem.writeWord w.addr (w.be &&& lanes) w.data
      freeCount := s.freeCount + 1 }

/-- The operation being carried is a commit burst. -/
def State.commitCarried (s : State) : Bool :=
  match s.granted with
  | none => false
  | some g =>
    match g.op with
    | .commit _ _ => true
    | _ => false

/-- The access in flight at a port is a valid watched write (R131). -/
def Engine.watching (e : Engine) : Bool :=
  match e.estate with
  | .inMemory _ _ (.single (.watched _ _)) _ => true
  | _ => false

/-- What the word of a write that expired holds: any mixture of lanes, its old or its new value
whole, or its old or its new consumer count with any mixture on the other lanes. -/
inductive OpenWord where
  | mixed
  | whole
  | count
deriving DecidableEq, Repr

/-- What the word that the operation being carried writes now holds if the write expires: whole in a
commit burst (R72) and for the producer word, the last write of a notice burst (R107, R128), a whole
count for a watched write (R105, R132), and any mixture otherwise (R104). -/
def State.openWord (s : State) : OpenWord :=
  match s.granted with
  | none => .mixed
  | some g =>
    match g.op, g.todo with
    | .commit _ _, _ => .whole
    | .entry _ _, [_] => .whole
    | .fullRing _ _, [_] => .whole
    | .lossReport _ _, [_] => .whole
    | .single p, _ => if (s.engines.get p).watching then .count else .mixed
    | _, _ => .mixed

/-- All lanes or none, by a free value (log entry 7). -/
def State.wholeLanes (s : State) : Lanes := if Config.freeWhole s.freeCount then allLanes else 0

/-- The lanes on which a write that expired has landed, a free value (log entry 7). -/
def State.expiredLanes (s : State) : Lanes :=
  match s.openWord with
  | .mixed => Config.freeLanes s.freeCount
  | .whole => s.wholeLanes
  | .count => (s.wholeLanes &&& 3) ||| (Config.freeLanes s.freeCount &&& 12)

/-- The lanes on which a write that RESET cut off has landed, a free value (log entry 7): all or none
for a commit burst (R73), any of them otherwise (R108). -/
def State.cutLanes (s : State) : Lanes :=
  if s.commitCarried then s.wholeLanes else Config.freeLanes s.freeCount

/-- The word access in progress expires: a write may have landed (R104). -/
def State.landExpired (s : State) (w : WordAccess) : State := s.landOn w s.expiredLanes

/-- The word access in progress is cut off by RESET: a write may have landed (R73, R108). -/
def State.landCut (s : State) (w : WordAccess) : State := s.landOn w s.cutLanes

/-- The memory answers the presented word access: a write changes memory on its enabled lanes
(R97), freely if the acknowledge was a late one (R103, log entry 9). -/
def State.answer (s : State) (w : WordAccess) (ans : Answer) : State :=
  match ans.late, w.dir with
  | none, .write =>
    { s with ackHigh := ans.held, mem := s.mem.writeWord w.addr w.be w.data }
  | none, .read => { s with ackHigh := ans.held }
  | some _, _ => { s.landOn w (Config.freeLanes s.freeCount) with ackHigh := ans.held }

/-- The data taken from an answer: the word in memory, or the data of a late acknowledge (R103), on
the lanes asked for (R97, R174). -/
def State.answerData (s : State) (w : WordAccess) (ans : Answer) : Word :=
  pickLanes w.be (match ans.late with | none => s.mem.readWord w.addr | some d => d)

/-- The words read once this access has completed too. -/
def gotAfter (g : Granted) (w : WordAccess) (d : Word) : List Word :=
  match w.dir with
  | .read => g.got ++ [d]
  | .write => g.got

/-- The operation ends: PSTATE becomes IDLE (R96). -/
def State.endOp (s : State) : State := { s with granted := none }

/-! ## The ending of an access (R166) -/

/-- The data lines at the end of an access: driven for a read only. -/
def Access.dataLines (acc : Access) (w : Word) : Option Word :=
  match acc.dir with
  | .read => some w
  | .write => none

/-- The access ends and its engine is IDLE; the port shows the ending. -/
def State.endAccess (s : State) (p : Port) (out : PortOut) : State :=
  (s.setEState p .idle).setPins p { s.pins.get p with out := out }

/-- The access ends with READY and this data. -/
def State.endReady (s : State) (p : Port) (acc : Access) (w : Word) : State :=
  s.endAccess p (.ready (acc.dataLines w))

/-- The access ends with FAULT; a read returns zero on all four lanes (R166). -/
def State.endFault (s : State) (p : Port) (acc : Access) : State :=
  s.endAccess p (.fault (acc.dataLines 0))

/-- The port word of a canonical word (R29): mirrored back, zero on lanes not enabled. A read in
BARE is raw. -/
def portWord (acc : Access) (taken : Option Taken) (w : Word) : Word :=
  pickLanes acc.be
    (match taken with
     | none => w
     | some t => mirrorWord t.conv w)

/-- The engine claims a memory operation for its access (R98, R164). -/
def State.claim (s : State) (p : Port) (acc : Access) (taken : Option Taken) (job : Job) : State :=
  s.setEState p (.inMemory acc taken job .waiting)

end Sys2Proof.Machine
end

