-- ==== Sys2Proof/Machine/Flags.lean ====
section
/-! DEFINITION. The conditions the part evaluates afresh from its state: the attention lines, a
ring's room, the validity of a consumer count, the torn test and the check test. -/

namespace Sys2Proof.Machine

/-! ## Rings (R121 to R135) -/

/-- The ring has room for a notice (R124). -/
def Ring.hasRoom (r : Ring) (entries : Nat) : Bool := decide ((r.prod - r.cons).toNat < entries)

/-- An offered count is valid (R131). -/
def Ring.validCount (r : Ring) (c : Count) : Bool :=
  decide ((c - r.cons).toNat ≤ (r.prod - r.cons).toNat) && r.watch.isNone

/-- The SHADOW slot at a count (R122). -/
def slotOf (entries : Nat) (c : Count) : Nat := c.toNat % entries

/-- The SHADOW slots of `n` counts from `c` on become empty (R132). -/
def clearSlots (entries : Nat) : List (Option (BitVec 2)) → Count → Nat → List (Option (BitVec 2))
  | sh, _, 0 => sh
  | sh, c, n + 1 => clearSlots entries (sh.set (slotOf entries c) none) (c + 1) n

/-- The ring with a consumer count taken (R132). -/
def Ring.take (r : Ring) (entries : Nat) (c : Count) : Ring :=
  { r with
    shadow := clearSlots entries r.shadow r.cons (c - r.cons).toNat
    cons := c
    watch := none }

/-- The ring holds an unconsumed notice of at least this severity (R135). -/
def Ring.meets (r : Ring) (thresh : Nat) : Bool :=
  r.shadow.any fun slot =>
    match slot with
    | none => false
    | some sev => decide (thresh ≤ sev.toNat)

/-- What the attention line of a port is by its ring and threshold (R135). -/
def State.attention (s : State) (p : Port) : Bool :=
  match s.map with
  | none => false
  | some m => (m.rings.get p).isSome && (s.rings.get p).meets (m.settings.get p).thresh

/-- The attention line of a port is evaluated afresh (R135). -/
def State.evaluateAttention (s : State) (p : Port) : State :=
  { s with attn := s.attn.set p (s.attention p) }

/-! ## Verification of a capture (R84, R85) -/

/-- The record is in the Torn Record List or its window is SUSPECT (R84). -/
def State.foundTorn (s : State) (base : WAddr) (window : Nat) : Bool :=
  decide (({ base := base, window := window } : TornEntry) ∈ s.torn)
    || s.suspect.getD window false

/-- The check word of captured words is the CRC-32 of the words before it (R85). -/
def checkHolds (words : List Word) : Bool :=
  decide (words.getLast? = some (crc32 words.dropLast))

/-! ## The closing condition of a session (R47) -/

/-- The word offset of the first data word (R3). -/
def RecordSpec.firstData (spec : RecordSpec) : Nat := if spec.stamp then 1 else 0

/-- The number of data words (R3). -/
def RecordSpec.dataWords (spec : RecordSpec) : Nat :=
  spec.reclen - (if spec.stamp then 1 else 0) - (if spec.check then 1 else 0)

/-- The word offset of the closing word (R3). -/
def RecordSpec.closingWord (spec : RecordSpec) : Nat :=
  spec.reclen - 1 - (if spec.check then 1 else 0)

/-- The data words of STAGE, in ascending word offset. -/
def RecordSpec.dataStage (spec : RecordSpec) (stage : List Staged) : List Staged :=
  (stage.drop spec.firstData).take spec.dataWords

/-- Every byte of the word is staged. -/
def Staged.whole (st : Staged) : Bool := st.mask == allLanes

/-- The closing condition of the window's MODE (R47). -/
def RecordSpec.closes (spec : RecordSpec) (stage : List Staged) : Bool :=
  match spec.mode with
  | .full => (spec.dataStage stage).all Staged.whole
  | .close => (stage.getD spec.closingWord default).whole

end Sys2Proof.Machine
end

