-- ==== Sys2Proof/Machine/NoticeUnit.lean ====
section
/-! DEFINITION. The Notice Unit: receiving a notice, the pending queue, the choice of the next
burst, and the three forms of a notice burst (spec/07). -/

namespace Sys2Proof.Machine

/-- What a block gives when it raises a notice (R116): every field but the severity and the time,
and the destination set of the kind (R117). -/
structure Report where
  kind : NoticeKind
  port : Option Port
  detail : BitVec 8
  window : BitVec 5
  address : WAddr
  value : Word
  dest : Both Bool
deriving DecidableEq, Repr

/-- The destination set of one ring. -/
def Both.only (p : Port) : Both Bool := (Both.same false).set p true

/-- The severity of a kind in a map (R6). -/
def RecordMap.severity (m : RecordMap) (k : NoticeKind) : BitVec 2 :=
  m.severities.getD (k.code - 1) 0

/-- The notice received from a report (R116). -/
def Report.notice (r : Report) (m : RecordMap) (now : Time) : Notice :=
  { kind := r.kind, port := r.port, severity := m.severity r.kind, detail := r.detail,
    window := r.window, address := r.address, value := r.value, time := now }

/-- The set without the rings that the map does not configure (R118). -/
def RecordMap.resolve (m : RecordMap) (d : Both Bool) : Both Bool :=
  { a := d.a && m.rings.a.isSome, b := d.b && m.rings.b.isSome }

/-- The set holds no ring. -/
def emptySet (d : Both Bool) : Bool := !d.a && !d.b

/-- A notice is lost from a full queue for a ring (R120). -/
def Ring.countLost (r : Ring) : Ring := { r with plost := satAdd r.plost 1, lrep := true }

/-- A notice is lost for every ring of the set (R120). -/
def State.countLost (s : State) (d : Both Bool) : State :=
  { s with rings :=
      { a := if d.a then s.rings.a.countLost else s.rings.a,
        b := if d.b then s.rings.b.countLost else s.rings.b } }

/-- A deferred notice is lost for every port of the set (R136). -/
def State.countDeferredLost (s : State) (d : Both Bool) : State :=
  { s with deferredLost :=
      { a := if d.a then satAdd s.deferredLost.a 1 else s.deferredLost.a,
        b := if d.b then satAdd s.deferredLost.b 1 else s.deferredLost.b } }

/-- The queue with an entry joined at its tail (R119). -/
def State.enqueue (s : State) (n : Notice) (d : Both Bool) (deferred : Bool) : State :=
  { s with queue := s.queue ++
      [{ notice := n, dest := d, handled := Both.same false, deferred := deferred }] }

/-- The Notice Unit receives a notice: discarded without rings (R118), deferred or counted in
LOADING (R136), else resolved and queued or lost (R118 to R120). -/
def State.raise (s : State) (r : Report) : State :=
  match s.map with
  | none => s
  | some m =>
    let n := r.notice m s.timebase
    if s.isLoading then
      if s.queue.length < Config.queueSlots then s.enqueue n r.dest true
      else s.countDeferredLost r.dest
    else
      let d := m.resolve r.dest
      if emptySet d then s
      else if s.queue.length < Config.queueSlots then s.enqueue n d false
      else s.countLost d

/-- The Notice Unit receives several notices, in this order. -/
def State.raiseAll (s : State) : List Report → State
  | [] => s
  | r :: rs => (s.raise r).raiseAll rs

/-- An effect and the notices it raises, apart from when they are received: here at once. -/
def received (x : State × List Report) : State := x.1.raiseAll x.2

/-- Notices that await the Notice Unit: those of each port engine and its own, in the order raised. -/
structure Awaiting where
  engines : Both (List Report)
  noticeUnit : List Report
deriving DecidableEq, Repr

/-- Three sequences as one, each kept in its order: `turns` names the one the next item comes from, a
turn of one that is at its end is passed over, and what is left after the last turn follows (R119). -/
def interleave {α : Type} : List Source → List α → List α → List α → List α
  | [], xs, ys, zs => xs ++ ys ++ zs
  | .engine .a :: ts, x :: xs, ys, zs => x :: interleave ts xs ys zs
  | .engine .b :: ts, xs, y :: ys, zs => y :: interleave ts xs ys zs
  | .noticeUnit :: ts, xs, ys, z :: zs => z :: interleave ts xs ys zs
  | _ :: ts, xs, ys, zs => interleave ts xs ys zs

/-- A notice burst is being carried. -/
def State.burstCarried (s : State) : Bool :=
  match s.granted with
  | none => false
  | some g =>
    match g.op with
    | .entry _ _ => true
    | .fullRing _ _ => true
    | .lossReport _ _ => true
    | _ => false

/-- The ring is configured and its LREP is set. -/
def State.lossDue (s : State) (p : Port) : Bool :=
  (s.ringPlace p).isSome && (s.rings.get p).lrep

/-- The first ring of an entry's set not yet handled, ring A before ring B (R119). -/
def QueueEntry.nextRing (e : QueueEntry) : Option Port :=
  if e.dest.a && !e.handled.a then some .a
  else if e.dest.b && !e.handled.b then some .b
  else none

/-- The four choices of R123, in their order. -/
def State.noticeChoice (s : State) : Option NoticeClaim :=
  if s.lossDue .a then some (.lossReport .a)
  else if s.lossDue .b then some (.lossReport .b)
  else
    match s.queue with
    | [] => none
    | e :: _ => if e.deferred then none else e.nextRing.map .head

/-- With no claim and no granted burst, the Notice Unit makes its choice and claims it (R123). -/
def State.chooseNotice (s : State) : State :=
  if s.noticeClaim.isNone && !s.burstCarried then { s with noticeClaim := s.noticeChoice } else s

/-- The Notice Unit is drained (R136). -/
def State.drained (s : State) : Bool :=
  s.queue.all (fun e => e.deferred) && !s.lossDue .a && !s.lossDue .b
    && s.noticeClaim.isNone && !s.burstCarried

/-! ## Notice bursts (R124, R126, R127) -/

/-- The high half of the producer word a burst writes: LOST + PLOST, saturated. -/
def Ring.lostOut (r : Ring) : Count := satAdd r.lost r.plost

/-- The word address of entry word 0 of the slot at PROD (R122, R124). -/
def slotAddress (pl : RingPlace) (r : Ring) : WAddr :=
  pl.base + BitVec.ofNat 20 (2 + 4 * slotOf pl.cap.entries r.prod)

/-- The five writes of an entry burst (R124). -/
def entryWrites (pl : RingPlace) (r : Ring) (n : Notice) : List WordAccess :=
  writesFrom (slotAddress pl r) n.words ++ [writeAt pl.base (ofHalves r.lostOut (r.prod + 1))]

/-- The one write of a full-ring burst or a loss report (R126, R127). -/
def producerWrite (pl : RingPlace) (r : Ring) : List WordAccess :=
  [writeAt pl.base (ofHalves r.lostOut r.prod)]

/-- The granted notice burst takes its form from the ring's items (R124, R126, R127). -/
def State.startNotice (s : State) (c : NoticeClaim) : State :=
  match c with
  | .lossReport p =>
    match s.ringPlace p with
    | none => s
    | some pl =>
      let r := s.rings.get p
      s.issue (.lossReport p r.plost) (producerWrite pl r) 0 []
  | .head p =>
    match s.ringPlace p, s.queue with
    | some pl, e :: _ =>
      let r := s.rings.get p
      if r.hasRoom pl.cap.entries then
        s.issue (.entry p r.plost) (entryWrites pl r e.notice) 0 []
      else
        let r' := { r with plost := satAdd r.plost 1 }
        (s.setRing p r').issue (.fullRing p r'.plost) (producerWrite pl r') 0 []
    | _, _ => s

/-- A ring becomes handled for the head entry, which leaves the queue when no ring of its set is
left (R119). -/
def handleHead (p : Port) : List QueueEntry → List QueueEntry
  | [] => []
  | e :: es =>
    let h := e.handled.set p true
    if (!e.dest.a || h.a) && (!e.dest.b || h.b) then es else { e with handled := h } :: es

/-- The ring becomes handled for the head entry of the queue. -/
def State.handled (s : State) (p : Port) : State := { s with queue := handleHead p s.queue }

/-- The ring after a producer word write has completed: LOST is what was written, PLOST loses the
carried amount, LREP is cleared (R125 to R127). -/
def Ring.reported (r : Ring) (written : Word) (carried : Count) : Ring :=
  { r with lost := highHalf written, plost := r.plost - carried, lrep := false }

/-- The ring after an entry burst has completed (R125). -/
def Ring.entered (r : Ring) (entries : Nat) (sev : BitVec 2) (written : Word) (carried : Count) :
    Ring :=
  let r' := r.reported written carried
  { r' with prod := r.prod + 1, shadow := r.shadow.set (slotOf entries r.prod) (some sev) }

/-- The deferred entries are released into the rings in force (R137). -/
def RecordMap.releaseEntries (m : RecordMap) : List QueueEntry → List QueueEntry
  | [] => []
  | e :: es =>
    if e.deferred then
      let d := m.resolve e.dest
      if emptySet d then m.releaseEntries es
      else { e with dest := d, deferred := false } :: m.releaseEntries es
    else e :: m.releaseEntries es

/-- A port's deferred lost count joins PLOST of its ring (R137). -/
def Ring.addDeferred (r : Ring) (configured : Bool) (n : Count) : Ring :=
  if configured && n != 0 then { r with plost := satAdd r.plost n, lrep := true } else r

/-- The Notice Unit releases what LOADING deferred (R137). With no rings in force the deferred
entries are removed. -/
def State.releaseDeferred (s : State) : State :=
  match s.map with
  | none =>
    { s with
      queue := s.queue.filter (fun e => !e.deferred)
      deferredLost := Both.same 0 }
  | some m =>
    { s with
      queue := m.releaseEntries s.queue
      rings :=
        { a := s.rings.a.addDeferred m.rings.a.isSome s.deferredLost.a,
          b := s.rings.b.addDeferred m.rings.b.isSome s.deferredLost.b }
      deferredLost := Both.same 0 }

end Sys2Proof.Machine
end

