-- ==== Sys2Proof/Machine/Classify.lean ====
section
/-! DEFINITION. Classification of an access (R13), its word pattern (R25), its rights (R14), and
the reports the port engines raise. -/

namespace Sys2Proof.Machine

/-! ## Classes (R13) -/

/-- The words a window covers from its base (R3, R4). -/
def Window.extent (w : Window) : Nat :=
  match w.kind with
  | .plain span _ => span
  | .record spec => spec.reclen * spec.reccnt

/-- The words of a ring region (R8). -/
def Capacity.regionWords (c : Capacity) : Nat := 2 + 4 * c.entries

/-- The offset of an address in a span of words, if it lies there. -/
def offsetIn (base : WAddr) (words : Nat) (a : WAddr) : Option Nat :=
  if base.toNat ≤ a.toNat ∧ a.toNat < base.toNat + words then some (a.toNat - base.toNat) else none

/-- The role of a word of a ring region by its offset (R8). -/
def ringRole (offset : Nat) : RingRole :=
  if offset = 0 then .producer else if offset = 1 then .consumer else .entry

/-- The role of a word of a record by its offset (R3). -/
def RecordSpec.role (spec : RecordSpec) (o : Nat) : WordRole :=
  if spec.stamp ∧ o = 0 then .stamp
  else if spec.check ∧ o = spec.reclen - 1 then .check
  else .data (decide (o = spec.closingWord))

/-- The word address `n` words after another. -/
def wordAfter (base : WAddr) (n : Nat) : WAddr := base + BitVec.ofNat 20 n

/-- The class of an address in a window at offset `x` (R3, R13). -/
def Window.classAt (w : Window) (index x : Nat) : Class :=
  match w.kind with
  | .plain _ _ => .plain index
  | .record spec =>
    .record index (x / spec.reclen) (x % spec.reclen)
      (wordAfter w.base (x / spec.reclen * spec.reclen)) (spec.role (x % spec.reclen))

/-- The window is a RECORD window. -/
def Window.isRecord (w : Window) : Bool :=
  match w.kind with
  | .plain _ _ => false
  | .record _ => true

/-- The class by the first window of one kind whose extent holds the address. -/
def classIn (records : Bool) (a : WAddr) : List Window → Nat → Option Class
  | [], _ => none
  | w :: ws, index =>
    if w.isRecord = records then
      match offsetIn w.base w.extent a with
      | some x => some (w.classAt index x)
      | none => classIn records a ws (index + 1)
    else classIn records a ws (index + 1)

/-- The class by a ring region (R8, R13). -/
def classRing (pl : Option RingPlace) (r : Port) (a : WAddr) : Option Class :=
  match pl with
  | none => none
  | some pl =>
    match offsetIn pl.base pl.cap.regionWords a with
    | some x => some (.ring r (ringRole x))
    | none => none

/-- The first class of R13's table that holds for a word address. -/
def classify (m : RecordMap) (imageBase a : WAddr) : Class :=
  if a = imageBase then .image .request
  else if a = imageBase + 1 then .image .status
  else
    ((((classRing m.rings.a .a a).or (classRing m.rings.b .b a)).or
      (classIn true a m.windows 0)).or (classIn false a m.windows 0)).getD .unmapped

/-! ## Conversion (R25, R26, R28) -/

/-- The pattern of a data word of a record (R25). -/
def RecordMap.dataPattern (m : RecordMap) (window offset : Nat) : Pattern :=
  let spec := m.spec window
  match m.layouts[spec.layout]? with
  | none => .p4
  | some lay => lay.patterns.getD (offset - spec.firstData) .p4

/-- The word pattern of a class (R25); `p1111` moves no lane, which is to pass raw (R33). -/
def RecordMap.pattern (m : RecordMap) : Class → Pattern
  | .image _ => .p1111
  | .ring _ _ => .p4
  | .record w _ o _ role =>
    match role with
    | .stamp => .p4
    | .check => .p4
    | .data _ => m.dataPattern w o
  | .plain w =>
    match m.windows[w]? with
    | some { base := _, kind := .plain _ ew, rights := _ } => ew.pattern
    | _ => .p1111
  | .unmapped => .p1111

/-- The access as classified, with its canonical enables and data (R28, R29). -/
def RecordMap.taken (m : RecordMap) (p : Port) (cls : Class) (acc : Access) : Taken :=
  let conv := (m.pattern cls).underOrder (m.settings.get p).order
  { cls := cls, conv := conv, be := mirrorLanes conv acc.be, data := mirrorWord conv acc.data }

/-! ## Rights (R14) -/

/-- The rights of a port in a window. -/
def RecordMap.rightsIn (m : RecordMap) (p : Port) (w : Nat) : Rights :=
  match m.windows[w]? with
  | none => .none
  | some win => win.rights.get p

/-- The right allows this direction (R14). -/
def Rights.allows : Rights → Direction → Bool
  | .none, _ => false
  | .read, .read => true
  | .read, .write => false
  | .readWrite, _ => true

/-! ## Reports of the port engines -/

/-- The reasons of refusal (R20). -/
inductive RefusalReason where
  | noRead
  | noWrite
  | unmapped
  | stampWord
  | checkWord
  | ringWrite
  | loadRight
deriving DecidableEq, Repr

/-- The code of a reason (R20). -/
def RefusalReason.code : RefusalReason → BitVec 8
  | .noRead => 1
  | .noWrite => 2
  | .unmapped => 3
  | .stampWord => 4
  | .checkWord => 5
  | .ringWrite => 6
  | .loadRight => 7

/-- The reason for which rights refuse a direction (R14). -/
def rightsReason : Direction → RefusalReason
  | .read => .noRead
  | .write => .noWrite

/-- The window field of a notice about a class: 31 for a class without a window (R21, R169). -/
def Class.windowField : Class → BitVec 5
  | .record w _ _ _ _ => BitVec.ofNat 5 w
  | .plain w => BitVec.ofNat 5 w
  | _ => Config.noWindow

/-- The window field of a notice about an access: 31 if it has no class (R169). -/
def takenWindow : Option Taken → BitVec 5
  | some t => t.cls.windowField
  | none => Config.noWindow

/-- REFUSED (R21). -/
def refusedReport (p : Port) (acc : Access) (cls : Class) (why : RefusalReason) : Report :=
  { kind := .refused, port := some p, detail := why.code, window := cls.windowField,
    address := acc.addr, value := 0, dest := Both.only p }

/-- The reasons of abandonment (R56). -/
inductive AbandonReason where
  | expiry
  | evicted
  | load
deriving DecidableEq, Repr

/-- The code of a reason of abandonment (R56). -/
def AbandonReason.code : AbandonReason → BitVec 8
  | .expiry => 1
  | .evicted => 2
  | .load => 3

/-- The lanes in a lane set. -/
def laneCount (be : Lanes) : Nat :=
  (enabled be 0).toNat + (enabled be 1).toNat + (enabled be 2).toNat + (enabled be 3).toNat

/-- The staged-byte count of a session (R36). -/
def stagedBytes : List Staged → Nat
  | [] => 0
  | st :: sts => laneCount st.mask + stagedBytes sts

/-- ABANDONED (R56). -/
def abandonedReport (p : Port) (ses : Session) (why : AbandonReason) : Report :=
  { kind := .abandoned, port := some p, detail := why.code, window := BitVec.ofNat 5 ses.window,
    address := ses.base, value := BitVec.ofNat 32 (stagedBytes ses.stage), dest := Both.only p }

/-- STALE (R63). -/
def staleReport (p : Port) (ses : Session) (found : Count) : Report :=
  { kind := .stale, port := some p, detail := 0, window := BitVec.ofNat 5 ses.window,
    address := ses.base, value := ofHalves found (ses.baseGen.getD 0), dest := Both.only p }

/-- CHECK_MISMATCH (R85). -/
def mismatchReport (p : Port) (c : Capture) (words : List Word) : Report :=
  { kind := .checkMismatch, port := some p, detail := 0, window := BitVec.ofNat 5 c.window,
    address := c.base, value := crc32 words.dropLast, dest := Both.only p }

/-- TORN (R71): the writes completed and the found generation. -/
def tornReport (p : Port) (window : Nat) (base : WAddr) (completed : Nat) (found : Count) :
    Report :=
  { kind := .torn, port := some p, detail := BitVec.ofNat 8 completed,
    window := BitVec.ofNat 5 window, address := base, value := found.setWidth 32,
    dest := Both.only p }

/-- SUSPECT (R111). -/
def suspectReport (window : Nat) (base : WAddr) : Report :=
  { kind := .suspect, port := none, detail := BitVec.ofNat 8 window,
    window := BitVec.ofNat 5 window, address := base, value := 0, dest := Both.same true }

/-- The details of MEM_TIMEOUT (R117). -/
inductive TimeoutDetail where
  | singleRead
  | singleWrite
  | stampRead
  | capture
  | commit
deriving DecidableEq, Repr

/-- The code of a MEM_TIMEOUT detail (R117). -/
def TimeoutDetail.code : TimeoutDetail → BitVec 8
  | .singleRead => 1
  | .singleWrite => 2
  | .stampRead => 3
  | .capture => 4
  | .commit => 5

/-- The detail of an expired single operation (R105). -/
def singleDetail : Direction → TimeoutDetail
  | .read => .singleRead
  | .write => .singleWrite

/-- MEM_TIMEOUT (R44, R70, R92, R105). -/
def timeoutReport (p : Port) (d : TimeoutDetail) (window : BitVec 5) (address : WAddr)
    (value : Word) : Report :=
  { kind := .memTimeout, port := some p, detail := d.code, window := window, address := address,
    value := value, dest := Both.only p }

/-- HOLD_TIMEOUT (R169). -/
def holdReport (p : Port) (acc : Access) (window : BitVec 5) (session : Bool) : Report :=
  { kind := .holdTimeout, port := some p, detail := if session then 1 else 0, window := window,
    address := acc.addr, value := 0, dest := Both.only p }

/-- BAD_CONSUMER (R133): destined for the ring whose consumer word was written. -/
def badConsumerReport (p ring : Port) (acc : Access) (count : Count) : Report :=
  { kind := .badConsumer, port := some p, detail := 0, window := Config.noWindow,
    address := acc.addr, value := count.setWidth 32, dest := Both.only ring }

end Sys2Proof.Machine
end

