-- ==== Sys2Proof/Machine/Image.lean ====
section
/-! DEFINITION. The configuration image: its fields and the eight validation tests in their order
(R150 to R155, R175 to R177). -/

namespace Sys2Proof.Machine

/-- A field of an image word: word `i`, `len` bits from bit `lo` (spec/10). -/
def imageField (ws : List Word) (i lo len : Nat) : Nat := bits (ws.getD i 0) lo len

/-- W (spec/10). -/
def imageWindows (ws : List Word) : Nat := imageField ws 2 8 8

/-- Y (spec/10). -/
def imageLayouts (ws : List Word) : Nat := imageField ws 2 16 8

/-- ORDER by its code (spec/10). -/
def orderOf : Nat → Option ByteOrder
  | 0 => some .little
  | 1 => some .big
  | _ => none

/-- UNMAPPED by its code (spec/10). -/
def unmappedOf : Nat → Option UnmappedPolicy
  | 0 => some .pass
  | 1 => some .readOnly
  | 2 => some .refuse
  | _ => none

/-- A settings word (spec/10); `none` fails FORMAT (R151). -/
def settingsOf (ws : List Word) (i : Nat) : Option PortSettings :=
  match orderOf (imageField ws i 0 2), unmappedOf (imageField ws i 2 2) with
  | some o, some u =>
    if imageField ws i 4 3 ≤ 4 then
      some { order := o, unmapped := u, thresh := imageField ws i 4 3,
             loadRight := imageField ws i 8 1 == 1 }
    else none
  | _, _ => none

/-- The FORMAT test of everything but the settings words (R151). -/
def formatHolds (ws : List Word) : Bool :=
  imageField ws 2 0 8 == 1 && decide (imageWindows ws ≤ 24) && decide (imageLayouts ws ≤ 8)
    && imageField ws 7 0 16 != 0 && imageField ws 7 16 16 != 0
    && decide (imageField ws 7 16 16 ≤ 255)

/-- The length of an image of W windows and Y layouts (spec/08 "Contents of the Image"). -/
def imageLength (ws : List Word) : Nat := 13 + 4 * imageWindows ws + 5 * imageLayouts ws

/-- RIGHTS by its code (spec/10). -/
def rightsOf : Nat → Option Rights
  | 0 => some .none
  | 1 => some .read
  | 2 => some .readWrite
  | _ => none

/-- MODE by its code (spec/10). -/
def modeOf : Nat → Option Mode
  | 0 => some .full
  | 1 => some .close
  | _ => none

/-- POLICY by its code (spec/10). -/
def policyOf : Nat → Option Policy
  | 0 => some .last
  | 1 => some .guarded
  | _ => none

/-- EWIDTH by its value (spec/10). -/
def widthOf : Nat → Option ElementWidth
  | 1 => some .one
  | 2 => some .two
  | 4 => some .four
  | _ => none

/-- A span of words from a base ends within the address space (R3, R4, R8). -/
def withinMemory (base words : Nat) : Bool := decide (base + words ≤ 1048576)

/-- The kind fields of a PLAIN window entry at image word `i`; `none` fails RANGE (R153, R176). -/
def plainKindOf (ws : List Word) (i base : Nat) : Option WindowKind :=
  match widthOf (imageField ws (i + 1) 16 3) with
  | none => none
  | some ew =>
    let span := imageField ws (i + 3) 0 21
    if 1 ≤ span ∧ span ≤ 1048576 ∧ withinMemory base span = true then some (.plain span ew)
    else none

/-- The kind fields of a RECORD window entry at image word `i`; `none` fails RANGE (R153, R176). -/
def recordKindOf (ws : List Word) (i base : Nat) : Option WindowKind :=
  match modeOf (imageField ws (i + 1) 4 2), policyOf (imageField ws (i + 1) 6 2) with
  | some mode, some policy =>
    let len := imageField ws (i + 2) 0 6
    let cnt := imageField ws (i + 2) 16 13
    if 2 ≤ len ∧ len ≤ 32 ∧ 1 ≤ cnt ∧ cnt ≤ 4096 ∧ withinMemory base (len * cnt) = true then
      some (.record
        { reclen := len, reccnt := cnt, mode := mode, policy := policy,
          stamp := imageField ws (i + 1) 8 1 == 1, check := imageField ws (i + 1) 9 1 == 1,
          layout := imageField ws (i + 1) 10 4 })
    else none
  | _, _ => none

/-- The kind fields of a window entry: KIND is read first (R176). -/
def windowKindOf (ws : List Word) (i : Nat) : Option WindowKind :=
  match imageField ws i 20 2 with
  | 0 => plainKindOf ws i (imageField ws i 0 20)
  | 1 => recordKindOf ws i (imageField ws i 0 20)
  | _ => none

/-- The window entry at image word `i`; `none` fails RANGE (R153, R176). -/
def windowOf (ws : List Word) (i : Nat) : Option Window :=
  match windowKindOf ws i, rightsOf (imageField ws (i + 1) 0 2), rightsOf (imageField ws (i + 1) 2 2)
  with
  | some kind, some ra, some rb =>
    some { base := BitVec.ofNat 20 (imageField ws i 0 20), kind := kind,
           rights := { a := ra, b := rb } }
  | _, _, _ => none

/-- `n` window entries from image word `i` on; `none` fails RANGE. -/
def windowsOf (ws : List Word) (i : Nat) : Nat → Option (List Window)
  | 0 => some []
  | n + 1 =>
    match windowOf ws i, windowsOf ws (i + 4) n with
    | some w, some rest => some (w :: rest)
    | _, _ => none

/-- A run byte by its width code and count field (R177). -/
def runOf (b : Nat) : Run :=
  let field := b % 64
  match b / 64 with
  | 0 => { width := 1, count := field + 1 }
  | 1 => { width := 1, count := field + 65 }
  | 2 => { width := 2, count := field + 1 }
  | _ => { width := 4, count := field + 1 }

/-- Run `k` of the layout entry at image word `i`: lane k mod 4 of entry word 1 + k div 4. -/
def runAt (ws : List Word) (i k : Nat) : Run := runOf (imageField ws (i + 1 + k / 4) (8 * (k % 4)) 8)

/-- The layout entry at image word `i`, with its element map; `none` fails LAYOUT (R24, R177). -/
def layoutOf (ws : List Word) (i : Nat) : Option Layout :=
  let runs := imageField ws i 0 5
  let total := imageField ws i 8 8
  if 1 ≤ runs ∧ runs ≤ 16 ∧ 4 ≤ total ∧ total ≤ 128 ∧ total % 4 = 0 then
    let rs := (List.range runs).map (runAt ws i)
    if runBytes rs = total then
      match cutWords (runElements rs) [] 0 with
      | some patterns => some { total := total, runs := rs, patterns := patterns }
      | none => none
    else none
  else none

/-- `n` layout entries from image word `i` on; `none` fails LAYOUT. -/
def layoutsOf (ws : List Word) (i : Nat) : Nat → Option (List Layout)
  | 0 => some []
  | n + 1 =>
    match layoutOf ws i, layoutsOf ws (i + 5) n with
    | some l, some rest => some (l :: rest)
    | _, _ => none

/-- A RECORD window's LAYOUT is in the table and its TOTAL fits the data words (R24). -/
def layoutFits (layouts : List Layout) (w : Window) : Bool :=
  match w.kind with
  | .plain _ _ => true
  | .record spec =>
    match layouts[spec.layout]? with
    | none => false
    | some l => l.total == 4 * spec.dataWords

/-- A RECORD window that is GUARDED has STAMP (R154). -/
def policyHolds (w : Window) : Bool :=
  match w.kind with
  | .plain _ _ => true
  | .record spec =>
    match spec.policy with
    | .last => true
    | .guarded => spec.stamp

/-- A capacity code (spec/10): `none` for a code of no capacity, `some none` for NONE. -/
def capacityOf : Nat → Option (Option Capacity)
  | 0 => some none
  | 1 => some (some .c8)
  | 2 => some (some .c16)
  | 3 => some (some .c32)
  | 4 => some (some .c64)
  | 5 => some (some .c128)
  | 6 => some (some .c256)
  | _ => none

/-- A ring by image words `i` and `i + 1`; `none` fails RING, and the base of a ring that is NONE is
not tested (R154). -/
def ringOf (ws : List Word) (i : Nat) : Option (Option RingPlace) :=
  match capacityOf (imageField ws (i + 1) 0 4) with
  | none => none
  | some none => some none
  | some (some cap) =>
    if withinMemory (imageField ws i 0 20) cap.regionWords then
      some (some { base := BitVec.ofNat 20 (imageField ws i 0 20), cap := cap })
    else none

/-- Two extents, each a base and a number of words, share a word. -/
def share (x y : Nat × Nat) : Bool := decide (x.1 < y.1 + y.2) && decide (y.1 < x.1 + x.2)

/-- No two extents of a list share a word. -/
def disjoint : List (Nat × Nat) → Bool
  | [] => true
  | x :: xs => xs.all (fun y => !share x y) && disjoint xs

/-- The extent of a ring region, none for a ring that is not configured. -/
def ringExtent : Option RingPlace → List (Nat × Nat)
  | none => []
  | some pl => [(pl.base.toNat, pl.cap.regionWords)]

/-- The extents that the OVERLAP test compares (R155). -/
def extents (imageBase : WAddr) (windows : List Window) (rings : Both (Option RingPlace)) :
    List (Nat × Nat) :=
  (imageBase.toNat, 2) :: (windows.map fun w => (w.base.toNat, w.extent))
    ++ ringExtent rings.a ++ ringExtent rings.b

/-- SEV 1 to SEV 11 of word 8 (spec/10). -/
def severitiesOf (ws : List Word) : List (BitVec 2) :=
  (List.range 11).map fun k => (ws.getD 8 0).extractLsb' (2 * k) 2

/-- What validation answers: the map, or the result code of the first test that fails. -/
inductive Verdict where
  | passes (m : RecordMap)
  | fails (r : LoadResult)
deriving DecidableEq, Repr

/-- OVERLAP, the last test, and the map that passes (R155, R156). -/
def validateOverlap (imageBase : WAddr) (ws : List Word) (settings : Both PortSettings)
    (windows : List Window) (layouts : List Layout) (rings : Both (Option RingPlace)) : Verdict :=
  if disjoint (extents imageBase windows rings) then
    .passes
      { windows := windows, layouts := layouts, settings := settings,
        sessionLimit := (ws.getD 6 0).extractLsb' 0 16,
        captureLimit := (ws.getD 6 0).extractLsb' 16 16,
        holdLimit := (ws.getD 7 0).extractLsb' 0 16,
        memoryLimit := (ws.getD 7 0).extractLsb' 16 8,
        severities := severitiesOf ws, rings := rings }
  else .fails .overlap

/-- RANGE, LAYOUT, POLICY, RING and OVERLAP, in that order (R150, R153 to R155). -/
def validateEntries (imageBase : WAddr) (ws : List Word) (settings : Both PortSettings) : Verdict :=
  match windowsOf ws 13 (imageWindows ws) with
  | none => .fails .range
  | some windows =>
    match layoutsOf ws (13 + 4 * imageWindows ws) (imageLayouts ws) with
    | none => .fails .layout
    | some layouts =>
      if windows.all (layoutFits layouts) then
        if windows.all policyHolds then
          match ringOf ws 9, ringOf ws 11 with
          | some ra, some rb =>
            validateOverlap imageBase ws settings windows layouts { a := ra, b := rb }
          | _, _ => .fails .ring
        else .fails .policy
      else .fails .layout

/-- The eight tests in their fixed order (R150): FORMAT, LENGTH, CHECK, and the entries. `raw` holds
the image words as they stand in memory, `ws` as read in IMGORD order. -/
def validateWords (imageBase : WAddr) (n : Nat) (raw ws : List Word) : Verdict :=
  match formatHolds ws, settingsOf ws 4, settingsOf ws 5 with
  | true, some sa, some sb =>
    if n = imageLength ws then
      if crc32 (raw.drop 4) = ws.getD 3 0 then validateEntries imageBase ws { a := sa, b := sb }
      else .fails .check
    else .fails .length
  | _, _, _ => .fails .format

/-- The validation of an image of N words (R150 to R155). -/
def validate (st : Straps) (n : Nat) (raw : List Word) : Verdict :=
  validateWords st.imageBase n raw (raw.map (inOrder st.imgOrd))

end Sys2Proof.Machine
end

