-- ==== Sys2Proof/Machine/Tables.lean ====
section
/-! DEFINITION. The Session Table (spec/03) and the Capture Table (spec/05): staging, opening,
eviction, own reads, serving, abandonment, and the word accesses of the bursts that serve them. -/

namespace Sys2Proof.Machine

/-! ## Records as keys (R35) -/

/-- The session is of this record. -/
def Session.of (ses : Session) (window record : Nat) : Bool :=
  decide (ses.window = window) && decide (ses.record = record)

/-- The capture is of this record. -/
def Capture.of (c : Capture) (window record : Nat) : Bool :=
  decide (c.window = window) && decide (c.record = record)

/-- The port's session of a record. -/
def Engine.sessionOf (e : Engine) (window record : Nat) : Option Session :=
  e.sessions.find? fun ses => ses.of window record

/-- The port's capture of a record. -/
def Engine.captureOf (e : Engine) (window record : Nat) : Option Capture :=
  e.captures.find? fun c => c.of window record

/-- A Session Table with the session of a record removed: its slot is freed. -/
def dropSession (window record : Nat) (t : List Session) : List Session :=
  t.filter fun ses => !ses.of window record

/-- A Capture Table with the capture of a record removed: its slot is freed. -/
def dropCapture (window record : Nat) (t : List Capture) : List Capture :=
  t.filter fun c => !c.of window record

/-- A Session Table with the session of a record replaced, in its place. -/
def putSession (ses : Session) (t : List Session) : List Session :=
  t.map fun x => if x.of ses.window ses.record then ses else x

/-- A Capture Table with the capture of a record replaced, in its place. -/
def putCapture (c : Capture) (t : List Capture) : List Capture :=
  t.map fun x => if x.of c.window c.record then c else x

/-- The port's session of a record is freed or discarded. -/
def State.freeSession (s : State) (p : Port) (window record : Nat) : State :=
  s.setSessions p (dropSession window record (s.engines.get p).sessions)

/-- The port's capture of a record is freed. -/
def State.freeCapture (s : State) (p : Port) (window record : Nat) : State :=
  s.setCaptures p (dropCapture window record (s.engines.get p).captures)

/-! ## Staging (R46) -/

/-- A word of STAGE with the enabled canonical bytes of a write placed and their MASK bits set. -/
def Staged.place (st : Staged) (be : Lanes) (d : Word) : Staged :=
  { mask := st.mask ||| be, bytes := mergeLanes be d st.bytes }

/-- A session with the bytes of a write staged at a word offset. -/
def Session.place (ses : Session) (offset : Nat) (be : Lanes) (d : Word) : Session :=
  { ses with stage := ses.stage.set offset ((ses.stage.getD offset default).place be d) }

/-- The write is staged and the closing condition tested: the session is OPEN and the write ends
with READY, or it enters CLOSING and its commit burst is claimed (R41, R43, R46 to R48). -/
def State.stageWrite (s : State) (p : Port) (acc : Access) (t : Taken) (ses : Session)
    (offset : Nat) : State :=
  let placed := ses.place offset t.be t.data
  if (s.spec ses.window).closes placed.stage then
    (s.setSessions p (putSession { placed with state := .closing } (s.engines.get p).sessions)).claim
      p acc (some t) .commit
  else
    (s.setSessions p (putSession { placed with state := .open } (s.engines.get p).sessions)).endReady
      p acc 0

/-! ## Abandonment (R56) -/

/-- A slot of the Session Table is free: the first session in the opening order is evicted from a
full one, which is reported (R39, R40, R56). -/
def State.roomForSession (s : State) (p : Port) : State × List Report :=
  if (s.engines.get p).sessions.length < Config.tableSlots then (s, [])
  else
    match (s.engines.get p).sessions with
    | [] => (s, [])
    | ses :: rest => (s.setSessions p rest, [abandonedReport p ses .evicted])

/-! ## Opening a session (R39 to R42) -/

/-- A session just created: every MASK bit clear (R36). -/
def newSession (window record : Nat) (base : WAddr) (words : Nat) : Session :=
  { window := window, record := record, base := base, state := .opening,
    stage := List.replicate words default, baseGen := none, opened := none }

/-- A write opens a session: the port's capture of the record is freed, a slot is taken by eviction
if need be, and the write is staged or waits for its stamp read (R39, R41, R42). -/
def State.openSession (s : State) (p : Port) (acc : Access) (t : Taken)
    (window record offset : Nat) (base : WAddr) : State × List Report :=
  let spec := s.spec window
  let x := (s.freeCapture p window record).roomForSession p
  let s1 := x.1
  let ses := newSession window record base spec.reclen
  match spec.policy with
  | .guarded =>
    ((s1.setSessions p ((s1.engines.get p).sessions ++ [ses])).claim p acc (some t) .stampRead, x.2)
  | .last =>
    let opened := { ses with opened := some s1.timebase }
    ((s1.setSessions p ((s1.engines.get p).sessions ++ [opened])).stageWrite p acc t opened offset,
      x.2)

/-- A write to a data word of a record (R38). -/
def State.writeRecord (s : State) (p : Port) (acc : Access) (t : Taken)
    (window record offset : Nat) (base : WAddr) : State × List Report :=
  match (s.engines.get p).sessionOf window record with
  | some ses => (s.stageWrite p acc t ses offset, [])
  | none => s.openSession p acc t window record offset base

/-! ## Own reads (R50) -/

/-- The enabled lanes of an own read that come from STAGE. -/
def Staged.served (st : Staged) (be : Lanes) : Staged := { mask := st.mask &&& be, bytes := st.bytes }

/-- The enabled lanes of an own read that come from memory. -/
def Staged.unserved (st : Staged) (be : Lanes) : Lanes := be &&& ~~~st.mask

/-- An own read: served from STAGE at once, or with a single read for the lanes not staged. -/
def State.ownRead (s : State) (p : Port) (acc : Access) (t : Taken) (ses : Session)
    (offset : Nat) : State :=
  let st := ses.stage.getD offset default
  if st.unserved t.be = 0 then
    s.endReady p acc (portWord acc (some t) st.bytes)
  else s.claim p acc (some t) (.single (.ownRead (st.served t.be)))

/-! ## Captures (R79 to R88) -/

/-- The word offset's bit of READMASK is set. -/
def Capture.wasRead (c : Capture) (offset : Nat) : Bool := c.readMask.getLsbD offset

/-- The capture with a word offset's READMASK bit set (R86). -/
def Capture.mark (c : Capture) (offset : Nat) : Capture :=
  { c with readMask := c.readMask ||| (1#32 <<< offset) }

/-- Every word offset's READMASK bit is set (R87). -/
def Capture.covered (c : Capture) (words : Nat) : Bool :=
  (List.range words).all fun o => c.wasRead o

/-- A word is served from a LIVE capture: its READMASK bit is set, the read ends with READY, or
with FAULT and the data if the capture is BAD (R86), and a capture then wholly served is freed
(R87). -/
def State.serve (s : State) (p : Port) (acc : Access) (t : Taken) (c : Capture) (l : Live)
    (offset : Nat) : State :=
  let c' := c.mark offset
  let w := portWord acc (some t) (l.words.getD offset 0)
  let caps := (s.engines.get p).captures
  let s1 := s.setCaptures p
    (if c'.covered l.words.length then dropCapture c.window c.record caps else putCapture c' caps)
  s1.endAccess p (if l.bad then .fault (acc.dataLines w) else .ready (acc.dataLines w))

/-- A Capture Table with a slot free: the first capture in the fill order is evicted from a full
one (R81). -/
def withFreeSlot (t : List Capture) : List Capture :=
  if t.length < Config.tableSlots then t else t.tail

/-- A new capture is taken, and its capture burst claimed (R80). -/
def State.takeCapture (s : State) (p : Port) (acc : Access) (t : Taken) (window record : Nat)
    (base : WAddr) : State :=
  let rest := withFreeSlot (dropCapture window record (s.engines.get p).captures)
  let c : Capture :=
    { window := window, record := record, base := base, live := none, readMask := 0 }
  (s.setCaptures p (rest ++ [c])).claim p acc (some t) .capture

/-- A read of a word of a record (R38, R79). -/
def State.readRecord (s : State) (p : Port) (acc : Access) (t : Taken)
    (window record offset : Nat) (base : WAddr) : State :=
  match (s.engines.get p).sessionOf window record with
  | some ses => s.ownRead p acc t ses offset
  | none =>
    match (s.engines.get p).captureOf window record with
    | none => s.takeCapture p acc t window record base
    | some c =>
      match c.live with
      | none => s.takeCapture p acc t window record base
      | some l =>
        if c.wasRead offset then s.takeCapture p acc t window record base
        else s.serve p acc t c l offset

/-! ## The words of a commit burst (R59, R64 to R67) -/

/-- The merge reads of the data words that are not fully staged (R64). -/
def mergeReads (a : WAddr) : List Staged → List WordAccess
  | [] => []
  | st :: sts => if st.whole then mergeReads (a + 1) sts else readAt a :: mergeReads (a + 1) sts

/-- The reading phase (R59): the stamp read, then in CLOSE mode the merge reads. -/
def commitReads (spec : RecordSpec) (ses : Session) : List WordAccess :=
  (if spec.stamp then [readAt ses.base] else []) ++
    (match spec.mode with
     | .full => []
     | .close => mergeReads (wordAfter ses.base spec.firstData) (spec.dataStage ses.stage))

/-- The data words to be written, from STAGE and the words merged (R64). -/
def formData : List Staged → List Word → List Word
  | [], _ => []
  | st :: sts, merged =>
    if st.whole then st.bytes :: formData sts merged
    else
      match merged with
      | [] => st.bytes :: formData sts []
      | w :: ws => mergeLanes st.mask st.bytes w :: formData sts ws

/-- The found generation of a burst by the words it has read: 0 in a window without STAMP (R61,
R71). -/
def foundGeneration (spec : RecordSpec) (got : List Word) : Count :=
  if spec.stamp then lowHalf (got.getD 0 0) else 0

/-- The words merged among the words a burst has read. -/
def mergedWords (spec : RecordSpec) (got : List Word) : List Word :=
  if spec.stamp then got.drop 1 else got

/-- The new stamp word of a commit, if the window has STAMP (R66). -/
def newStamp (spec : RecordSpec) (p : Port) (got : List Word) : List Word :=
  if spec.stamp then [stampWord (successor (foundGeneration spec got)) p] else []

/-- The check word of a commit, if the window has CHECK: over the new stamp word and the data words
(R67). -/
def newCheck (spec : RecordSpec) (stamp data : List Word) : List Word :=
  if spec.check then [crc32 (stamp ++ data)] else []

/-- The writing phase (R65): data words, check word, stamp word. -/
def commitWrites (spec : RecordSpec) (ses : Session) (p : Port) (got : List Word) :
    List WordAccess :=
  let data := formData (spec.dataStage ses.stage) (mergedWords spec got)
  let stamp := newStamp spec p got
  writesFrom (wordAfter ses.base spec.firstData) data
    ++ (newCheck spec stamp data).map (writeAt (wordAfter ses.base (spec.reclen - 1)))
    ++ stamp.map (writeAt ses.base)

end Sys2Proof.Machine
end

