-- ==== Sys2Proof/Machine/PortEngine.lean ====
section
/-! DEFINITION. The port engine: presenting and taking an access, the handling of each class
(spec/01, spec/09), and what becomes of an access at a load. -/

namespace Sys2Proof.Machine

/-! ## Handling by class

Each meaning answers the state the access leaves and the notice it raises, if any. -/

/-- The access is refused: FAULT at once, tables as they stood, one REFUSED notice (R20, R21). -/
def State.refuse (s : State) (p : Port) (acc : Access) (cls : Class) (why : RefusalReason) :
    State × List Report :=
  (s.endFault p acc, [refusedReport p acc cls why])

/-- The access claims one single read or single write that only ends it. -/
def State.claimSingle (s : State) (p : Port) (acc : Access) (t : Option Taken) :
    State × List Report :=
  (s.claim p acc t (.single .ordinary), [])

/-- An IMAGE access (R15, R142). -/
def State.takeImage (s : State) (m : RecordMap) (p : Port) (acc : Access) (t : Taken)
    (word : ImageWord) : State × List Report :=
  match acc.dir, word with
  | .write, .request =>
    match requestLength s.straps.imgOrd acc.be acc.data with
    | none => s.claimSingle p acc (some t)
    | some n =>
      if (m.settings.get p).loadRight then (s.claim p acc (some t) (.single (.request n)), [])
      else s.refuse p acc t.cls .loadRight
  | _, _ => s.claimSingle p acc (some t)

/-- A write to a consumer word, sorted by its canonical enables and tested (R130, R131, R133). -/
def State.takeConsumer (s : State) (p : Port) (acc : Access) (t : Taken) (ring : Port) :
    State × List Report :=
  if enabled t.be 0 && enabled t.be 1 then
    let r := s.rings.get ring
    let c := lowHalf t.data
    if r.validCount c then
      ((s.setRing ring { r with watch := some p }).claim p acc (some t) (.single (.watched ring c)),
        [])
    else (s.endFault p acc, [badConsumerReport p ring acc c])
  else s.claimSingle p acc (some t)

/-- A RING_A or RING_B access (R16). -/
def State.takeRing (s : State) (p : Port) (acc : Access) (t : Taken) (ring : Port)
    (role : RingRole) : State × List Report :=
  match acc.dir, role with
  | .read, _ => s.claimSingle p acc (some t)
  | .write, .consumer => s.takeConsumer p acc t ring
  | .write, _ => s.refuse p acc t.cls .ringWrite

/-- A PLAIN access (R14, R18). -/
def State.takePlain (s : State) (m : RecordMap) (p : Port) (acc : Access) (t : Taken)
    (window : Nat) : State × List Report :=
  if (m.rightsIn p window).allows acc.dir then s.claimSingle p acc (some t)
  else s.refuse p acc t.cls (rightsReason acc.dir)

/-- An UNMAPPED access (R19). -/
def State.takeUnmapped (s : State) (m : RecordMap) (p : Port) (acc : Access) (t : Taken) :
    State × List Report :=
  match (m.settings.get p).unmapped, acc.dir with
  | .pass, _ => s.claimSingle p acc (some t)
  | .readOnly, .read => s.claimSingle p acc (some t)
  | .readOnly, .write => s.refuse p acc t.cls .unmapped
  | .refuse, _ => s.refuse p acc t.cls .unmapped

/-- A RECORD access: rights, then the role of a written word, then the tables (R14, R17, R38). -/
def State.takeRecord (s : State) (m : RecordMap) (p : Port) (acc : Access) (t : Taken)
    (window record offset : Nat) (base : WAddr) (role : WordRole) : State × List Report :=
  if (m.rightsIn p window).allows acc.dir then
    match acc.dir, role with
    | .read, _ => (s.readRecord p acc t window record offset base, [])
    | .write, .stamp => s.refuse p acc t.cls .stampWord
    | .write, .check => s.refuse p acc t.cls .checkWord
    | .write, .data _ => s.writeRecord p acc t window record offset base
  else s.refuse p acc t.cls (rightsReason acc.dir)

/-- An access classified in ACTIVE is handled as its class requires (R13). -/
def State.takeClassed (s : State) (m : RecordMap) (p : Port) (acc : Access) (t : Taken) :
    State × List Report :=
  match t.cls with
  | .image word => s.takeImage m p acc t word
  | .ring ring role => s.takeRing p acc t ring role
  | .record w r o base role => s.takeRecord m p acc t w r o base role
  | .plain w => s.takePlain m p acc t w
  | .unmapped => s.takeUnmapped m p acc t

/-- An access taken in ACTIVE: a null access ends READY before classification (R11). -/
def State.takeActive (s : State) (m : RecordMap) (p : Port) (acc : Access) : State × List Report :=
  if acc.be = 0 then (s.endReady p acc 0, [])
  else s.takeClassed m p acc (m.taken p (classify m s.straps.imageBase acc.addr) acc)

/-- The N of an access that is a request write in BARE (R12, R142). -/
def State.bareRequest (s : State) (acc : Access) : Option Nat :=
  match acc.dir with
  | .read => none
  | .write =>
    if acc.addr = s.straps.imageBase then requestLength s.straps.imgOrd acc.be acc.data else none

/-- An access taken in BARE is carried raw (R12). -/
def State.takeBare (s : State) (p : Port) (acc : Access) : State :=
  match s.bareRequest acc with
  | none => s.claim p acc none (.single .ordinary)
  | some n => s.claim p acc none (.single (.request n))

/-- What an access that is taken leaves, and the notice it raises: raw in BARE, held in LOADING,
classified in ACTIVE (R165). -/
def State.taking (s : State) (p : Port) (acc : Access) : State × List Report :=
  match s.part with
  | .bare => (s.takeBare p acc, [])
  | .loading _ => (s.setEState p (.held acc), [])
  | .active m => s.takeActive m p acc

/-- An access is taken, and its notice received. -/
def State.takeAccess (s : State) (p : Port) (acc : Access) : State := received (s.taking p acc)

/-- The lines latched as ACCESS at the moment of arrival (R165). -/
def Lines.latch (l : Lines) (now : Time) : Access :=
  { addr := l.addr, dir := l.dir, be := l.be, data := l.data, arrived := now }

/-- A processor presents lines with its strobe. They arrive if the strobe was deasserted, RESET is
released and the engine is IDLE (R165, R173); otherwise only the lines change. What the arrival
leaves, and the notice it raises. -/
def State.arriving (s : State) (p : Port) (l : Lines) : State × List Report :=
  let s1 := s.setPins p { s.pins.get p with strobe := some l }
  if (s.pins.get p).strobe.isNone ∧ s.resetAsserted = false ∧ (s.engines.get p).estate = .idle then
    s1.taking p (l.latch s.timebase)
  else (s1, [])

/-! ## A load begins (R57, R94, R102, R132, R145) -/

/-- The session is OPEN. -/
def Session.isOpen (ses : Session) : Bool := decide (ses.state = .open)

/-- WATCH is emptied by a withdrawn or ended watched write (R132). -/
def State.unwatch (s : State) (job : Job) : State :=
  match job with
  | .single (.watched ring _) => s.setRing ring { s.rings.get ring with watch := none }
  | _ => s

/-- An ungranted claim is withdrawn and its access becomes a held access (R10, R102). -/
def State.withdraw (s : State) (p : Port) : State :=
  match (s.engines.get p).estate with
  | .inMemory acc _ job .waiting => (s.unwatch job).setEState p (.held acc)
  | _ => s

/-- The engine's operation is being carried. -/
def Engine.carried (e : Engine) : Bool :=
  match e.estate with
  | .inMemory _ _ _ .granted => true
  | _ => false

/-- The sessions that a load abandons at one port: the OPEN ones in their opening order, then the one
that is not OPEN, unless its operation is being carried (R57). -/
def Engine.abandonedAtLoad (e : Engine) : List Session :=
  let opens := e.sessions.filter Session.isOpen
  if e.carried then opens else opens ++ e.sessions.filter fun ses => !ses.isOpen

/-- The ABANDONED notices of those sessions, with reason LOAD (R56, R57). -/
def State.loadReports (s : State) (p : Port) : List Report :=
  (s.engines.get p).abandonedAtLoad.map fun ses => abandonedReport p ses .load

/-- What a load does at one port but for the notices: an ungranted claim withdrawn, sessions abandoned
and captures freed, save those of an operation being carried (R57, R94, R102). -/
def State.emptyForLoad (s : State) (p : Port) : State :=
  let e := s.engines.get p
  if e.carried then
    (s.setSessions p (e.sessions.filter fun ses => !ses.isOpen)).setCaptures p
      (e.captures.filter fun c => c.live.isNone)
  else ((s.withdraw p).setSessions p []).setCaptures p []

/-- After an operation granted before a load has ended, while the part is LOADING (R57, R94,
R146). -/
def State.clearIfLoading (s : State) (p : Port) : State :=
  if s.isLoading then (s.emptyForLoad p).raiseAll (s.loadReports p) else s

/-! ## A load ends (R160, R161) -/

/-- The access has waited as long as the hold limit in force (R167). -/
def State.holdDue (s : State) (acc : Access) : Bool :=
  decide (s.holdLimit ≤ age s.timebase acc.arrived)

/-- A held access is taken afresh at the end of a load (R10, R160). -/
def State.retake (s : State) (p : Port) : State :=
  match (s.engines.get p).estate with
  | .held acc =>
    if s.holdDue acc then (s.endFault p acc).raise (holdReport p acc Config.noWindow false)
    else (s.setEState p .idle).takeAccess p acc
  | _ => s

/-- A held access at the end of a load from a state with this hold limit: one whose age has reached
it ends with FAULT though the end of the load is taken first (R170, log entry 25). -/
def State.retakeAfter (s : State) (limit : Nat) (p : Port) : State :=
  match (s.engines.get p).estate with
  | .held acc =>
    if limit ≤ age s.timebase acc.arrived then
      (s.endFault p acc).raise (holdReport p acc Config.noWindow false)
    else s.retake p
  | _ => s

end Sys2Proof.Machine
end

