-- ==== Sys2Proof/Machine/Arbiter.lean ====
section
/-! DEFINITION. The Memory Arbiter (R99, R100): choosing a claim and issuing the first word access
of its operation; and the step from one word access of an operation to its next (R101). -/

namespace Sys2Proof.Machine

/-- The claimant that follows in the rotation order A, B, NOTICE, A (R99). -/
def Rotor.next : Rotor → Rotor
  | .a => .b
  | .b => .notice
  | .notice => .a

/-- The claimant has a waiting claim. -/
def State.waits (s : State) : Rotor → Bool
  | .a => s.engines.a.waiting
  | .b => s.engines.b.waiting
  | .notice => s.noticeClaim.isSome

/-- The first claimant with a waiting claim from POINTER on (R99). -/
def State.rotate (s : State) : Option Rotor :=
  if s.waits s.pointer then some s.pointer
  else if s.waits s.pointer.next then some s.pointer.next
  else if s.waits s.pointer.next.next then some s.pointer.next.next
  else none

/-- The word access of a single operation: the canonical enables and data, raw without a class; an
own read asks for the lanes not staged alone (R97). -/
def singleAccess (acc : Access) (taken : Option Taken) (purpose : Purpose) : WordAccess :=
  let be := match taken with | none => acc.be | some t => t.be
  let data := match taken with | none => acc.data | some t => t.data
  match purpose with
  | .ownRead st => { addr := acc.addr, dir := acc.dir, be := st.unserved be, data := data }
  | _ => { addr := acc.addr, dir := acc.dir, be := be, data := data }

/-- The record of a classified access: window, record index, word offset, record base. -/
def Taken.recordOf (t : Taken) : Nat × Nat × Nat × WAddr :=
  match t.cls with
  | .record w r o base _ => (w, r, o, base)
  | _ => (0, 0, 0, 0)

/-- The record of the access in flight. -/
def recordOf (taken : Option Taken) : Nat × Nat × Nat × WAddr :=
  match taken with
  | none => (0, 0, 0, 0)
  | some t => t.recordOf

/-- The port's session that belongs to the access in flight; the empty one if there is none. -/
def State.jobSession (s : State) (p : Port) (taken : Option Taken) : Session :=
  ((s.engines.get p).sessionOf (recordOf taken).1 (recordOf taken).2.1).getD default

/-- The word accesses of a commit burst known at its grant: the reading phase, or the writing phase
if there is nothing to read (R59). -/
def State.startCommit (s : State) (p : Port) (taken : Option Taken) : State :=
  let ses := s.jobSession p taken
  let spec := s.spec ses.window
  match commitReads spec ses with
  | [] => s.issue (.commit p true) (commitWrites spec ses p []) 0 []
  | w :: ws => s.issue (.commit p false) (w :: ws) 0 []

/-- A port engine's claim is granted: CLAIM becomes GRANTED and the first word access is issued
(R97, R99). -/
def State.startPort (s : State) (p : Port) : State :=
  match (s.engines.get p).estate with
  | .inMemory acc taken job _ =>
    let s1 := s.setEState p (.inMemory acc taken job .granted)
    match job with
    | .single purpose => s1.issue (.single p) [singleAccess acc taken purpose] 0 []
    | .stampRead => s1.issue (.stampRead p) [readAt (recordOf taken).2.2.2] 0 []
    | .capture =>
      s1.issue (.capture p)
        (readsFrom (recordOf taken).2.2.2 (s.spec (recordOf taken).1).reclen) 0 []
    | .commit => s1.startCommit p taken
  | _ => s

/-- The loader's claim is granted (R97). -/
def State.startLoader (s : State) (c : LoaderClaim) : State :=
  match c with
  | .status word => s.issue .status [writeAt (s.straps.imageBase + 1) word] 0 []
  | .imageRead =>
    match s.part with
    | .loading ld => s.issue .imageRead (readsFrom s.straps.imageBase ld.reqN) 0 []
    | _ => s
  | .ringHeader p =>
    match s.part with
    | .loading { from? := _, phase := .installing cand, reqPort := _, reqN := _ } =>
      match cand.rings.get p with
      | some pl => s.issue (.ringHeader p) [writeAt pl.base 0, writeAt (pl.base + 1) 0] 0 []
      | none => s
    | _ => s

/-- The claimant found by rotation is granted and POINTER passes it (R99). -/
def State.startRotor (s : State) (r : Rotor) : State :=
  let s1 := { s with pointer := r.next }
  match r with
  | .a => s1.startPort .a
  | .b => s1.startPort .b
  | .notice =>
    match s1.noticeClaim with
    | none => s1
    | some c => { s1 with noticeClaim := none }.startNotice c

/-- The arbiter grants a claim if the Memory Port is IDLE and one waits (R99): the loader's first,
POINTER unchanged, else by rotation. -/
def State.arbitrate (s : State) : State :=
  match s.granted with
  | some _ => s
  | none =>
    match s.loaderClaim with
    | some c => { s with loaderClaim := none }.startLoader c
    | none =>
      match s.rotate with
      | none => s
      | some r => s.startRotor r

/-- The arbiter grants here if it is so ordered, before the claims that follow (R100). -/
def State.grantIf (s : State) (b : Bool) : State := if b then s.arbitrate else s

/-- An operation has ended: the arbiter grants first if it is so ordered, and the Notice Unit makes
its choice (R100, R123). -/
def State.chooseAfter (s : State) (grantFirst : Bool) : State :=
  (s.grantIf grantFirst).chooseNotice

/-- The Notice Unit's choice beside the claim that an arriving access has made at a port. Of two claims
made together at an idle Memory Port either may be taken first and granted at once (R100): a free
value (log entry 24). -/
def State.chooseBeside (s : State) (p : Port) : State :=
  if s.granted.isNone && (s.engines.get p).waiting && s.noticeClaim.isNone && s.noticeChoice.isSome
  then
    let t := { s with freeCount := s.freeCount + 1 }
    match Config.freeOrder s.freeCount with
    | .together => t.chooseNotice
    | .first => t.arbitrate.chooseNotice
    | .second =>
      ((t.setEState p .idle).chooseNotice.arbitrate.setEState p
        (s.engines.get p).estate).chooseNotice
  else s.chooseNotice

/-- A processor presents lines with its strobe, the notice of an access that arrives is received, and
the Notice Unit makes its choice. -/
def State.present (s : State) (p : Port) (l : Lines) : State :=
  (received (s.arriving p l)).chooseBeside p

/-- The commit burst's next word access once `rest` of its reading phase is left: a merge read, or
the first write (R59, R64, R65). -/
def State.nextCommitAccess (s : State) (p : Port) (ses : Session) (rest : List WordAccess)
    (done : Nat) (got : List Word) : State :=
  match rest with
  | [] => s.issue (.commit p true) (commitWrites (s.spec ses.window) ses p got) done got
  | w :: ws => s.issue (.commit p false) (w :: ws) done got

/-- The access, class and job of the operation that is being carried for a port engine. -/
def State.inFlight (s : State) (p : Port) : Option (Access × Option Taken × Job) :=
  match (s.engines.get p).estate with
  | .inMemory acc taken job .granted => some (acc, taken, job)
  | _ => none

/-- The classified access of a port engine whose carried operation is of this job. -/
def State.flight (s : State) (p : Port) (job : Job) : Option (Access × Taken) :=
  match s.inFlight p with
  | some (acc, some t, j) => if j = job then some (acc, t) else none
  | _ => none

/-- That access with the session it belongs to: OPENING for a stamp read, CLOSING for a commit. -/
def State.sessionFlight (s : State) (p : Port) (job : Job) : Option (Access × Taken × Session) :=
  match s.flight p job with
  | none => none
  | some (acc, t) =>
    match (s.engines.get p).sessionOf t.recordOf.1 t.recordOf.2.1 with
    | none => none
    | some ses => some (acc, t, ses)

/-- That access with the FILLING capture it took. -/
def State.captureFlight (s : State) (p : Port) : Option (Access × Taken × Capture) :=
  match s.flight p .capture with
  | none => none
  | some (acc, t) =>
    match (s.engines.get p).captureOf t.recordOf.1 t.recordOf.2.1 with
    | none => none
    | some c => some (acc, t, c)

end Sys2Proof.Machine
end

