-- ==== Sys2Proof/Machine/Limits.lean ====
section
/-! DEFINITION. What the hold limit and the session limit do at a port: the state each expiry leaves
and the notice it raises, apart from when that notice is received; and the events that meet the entry of
LOADING. -/

namespace Sys2Proof.Machine

/-! ## Hold limit (R161, R168, R169) -/

/-- What an ungranted claim's withdrawal by the hold limit does beside ending the access (R168). -/
def State.dropJob (s : State) (p : Port) (taken : Option Taken) (job : Job) : State :=
  let rec_ := recordOf taken
  match job with
  | .single _ => s.unwatch job
  | .stampRead => s.freeSession p rec_.1 rec_.2.1
  | .commit => s.freeSession p rec_.1 rec_.2.1
  | .capture => s.freeCapture p rec_.1 rec_.2.1

/-- The claim was for a session (R168, R169). -/
def Job.forSession : Job → Bool
  | .stampRead => true
  | .commit => true
  | _ => false

/-- The hold limit reaches the access of a port: it ends with FAULT, and the HOLD_TIMEOUT notice is
raised. `none` if no access of the port waits so long (R161, R167, R168). -/
def State.holdExpiry (s : State) (p : Port) : Option (State × Report) :=
  match (s.engines.get p).estate with
  | .held acc =>
    if s.holdDue acc then some (s.endFault p acc, holdReport p acc Config.noWindow false) else none
  | .inMemory acc taken job .waiting =>
    if s.holdDue acc then
      some ((s.dropJob p taken job).endFault p acc,
        holdReport p acc (takenWindow taken) job.forSession)
    else none
  | _ => none

/-! ## Session limit (R53) -/

/-- A stored time has reached a limit that is not 0. -/
def State.limitReached (s : State) (limit : Nat) (since : Time) : Bool :=
  decide (limit ≠ 0) && decide (limit ≤ age s.timebase since)

/-- An OPEN session that has reached the session limit is freed, and its ABANDONED notice of reason
EXPIRY raised. `none` if there is no such session (R53, R56). -/
def State.sessionExpiry (s : State) (p : Port) (window record : Nat) : Option (State × Report) :=
  match (s.engines.get p).sessionOf window record with
  | none => none
  | some ses =>
    match ses.state, ses.opened with
    | .open, some t =>
      if s.limitReached s.sessionLimit t then
        some (s.freeSession p window record, abandonedReport p ses .expiry)
      else none
    | _, _ => none

/-! ## Events at the moment LOADING is entered (R136, R143, R170) -/

/-- The port that an event reaches. -/
def eventPort : EntryEvent → Port
  | .hold p => p
  | .session p _ _ => p
  | .access p _ _ _ _ => p

/-- What an event leaves, and the notices it raises, apart from when they are received. An expiry that
is not due changes nothing. -/
def State.eventNow (s : State) : EntryEvent → State × List Report
  | .hold p => (s.holdExpiry p).elim (s, []) fun x => (x.1, [x.2])
  | .session p window record => (s.sessionExpiry p window record).elim (s, []) fun x => (x.1, [x.2])
  | .access p addr dir be data => s.arriving p { addr := addr, dir := dir, be := be, data := data }

/-- The notice is raised by the Notice Unit itself (R133). -/
def Report.ofNoticeUnit (r : Report) : Bool := decide (r.kind = .badConsumer)

/-- A port's notices, ahead of those that await the Notice Unit already: BAD_CONSUMER among the Notice
Unit's own, the others among the port engine's. -/
def Awaiting.ahead (x : Awaiting) (p : Port) (l : List Report) : Awaiting :=
  { engines := x.engines.set p (l.filter (fun r => !r.ofNoticeUnit) ++ x.engines.get p)
    noticeUnit := l.filter Report.ofNoticeUnit ++ x.noticeUnit }

/-- Nothing awaits the Notice Unit. -/
def Awaiting.nothing : Awaiting := { engines := Both.same [], noticeUnit := [] }

/-- The events taken before LOADING is entered: what they leave, and the notices still to be received,
of each block in the order raised. -/
def State.takeEvents (s : State) : List EntryEvent → State × Awaiting
  | [] => (s, .nothing)
  | e :: es =>
    let now := s.eventNow e
    let later := now.1.takeEvents es
    (later.1, later.2.ahead (eventPort e) now.2)

end Sys2Proof.Machine
end

