-- ==== Sys2Proof/Machine/Loader.lean ====
section
/-! DEFINITION. The Configuration Loader's shared operations: the start of a load, its claims, a
failure, and the end of a load (spec/08). -/

namespace Sys2Proof.Machine

/-- The loader claims a status word write: the word is formed in IMGORD order and RESULT takes the
code it carries (R147, R156, R158, R162). -/
def State.claimStatus (s : State) (r : LoadResult) (windows seq torn : BitVec 8) : State :=
  let word := inOrder s.straps.imgOrd (statusValue r windows seq torn)
  { s with loaderClaim := some (.status word), result := r }

/-- The load in progress goes to another PHASE. -/
def State.toPhase (s : State) (ld : Load) (ph : Phase) : State :=
  { s with part := .loading { ld with phase := ph } }

/-- The load fails: REPORTING, with a status word write of the failure code claimed (R158). -/
def State.failLoad (s : State) (ld : Load) (r : LoadResult) : State :=
  (s.toPhase ld .reporting).claimStatus r 0 s.seq 0

/-- The part enters LOADING: PHASE is STARTING, and the IN_PROGRESS write is claimed (R143, R147). -/
def State.enterLoading (s : State) (p : Port) (n : Nat) : State :=
  let ld : Load := { from? := s.map, phase := .starting, reqPort := p, reqN := n }
  ({ s with part := .loading ld }).claimStatus .inProgress 0 s.seq 0

/-- The part enters LOADING and the loader hands on what R145 lists: each port's claims, sessions and
captures are dealt with, and the notices of that are received, as deferred ones, in the order that
`entry` gives (log entries 11, 12). The events that `entry` lists are taken before, then a waiting
claim is granted if `grantFirst` (R143). -/
def State.beginLoad (s : State) (p : Port) (n : Nat) (grantFirst : Bool) (entry : EntryOrder) :
    State :=
  let x := s.takeEvents entry.events
  let s1 := x.1.grantIf grantFirst
  (((s1.enterLoading p n).emptyForLoad .a).emptyForLoad .b).raiseAll
    (interleave entry.turns (x.2.engines.a ++ s1.loadReports .a)
      (x.2.engines.b ++ s1.loadReports .b) x.2.noticeUnit)

/-- The claim of the DONE status word write (R156). -/
def State.claimDone (s : State) (cand : RecordMap) : State :=
  s.claimStatus .done (BitVec.ofNat 8 cand.windows.length) (s.seq + 1)
    (BitVec.ofNat 8 s.torn.length)

/-- The first installing write of a candidate (R156). -/
def State.claimInstall (s : State) (cand : RecordMap) : State :=
  if cand.rings.a.isSome then { s with loaderClaim := some (.ringHeader .a) }
  else if cand.rings.b.isSome then { s with loaderClaim := some (.ringHeader .b) }
  else s.claimDone cand

/-- The installing write after a ring's header write (R156). -/
def State.claimAfterHeader (s : State) (cand : RecordMap) (ring : Port) : State :=
  match ring with
  | .a => if cand.rings.b.isSome then { s with loaderClaim := some (.ringHeader .b) }
          else s.claimDone cand
  | .b => s.claimDone cand

/-- The outcome of validation: INSTALLING with its first write claimed, or REPORTING (R150). -/
def State.applyVerdict (s : State) (ld : Load) (v : Verdict) : State :=
  match v with
  | .fails r => s.failLoad ld r
  | .passes cand => (s.toPhase ld (.installing cand)).claimInstall cand

/-- The items of a ring as the loader installs it (R121, R157). -/
def freshRing : Option RingPlace → Ring
  | none => Ring.unconfigured
  | some pl => { Ring.unconfigured with shadow := List.replicate pl.cap.entries none }

/-- What a load that ends with DONE installs, and the loader's record of it (R157). -/
def State.install (s : State) (cand : RecordMap) : State :=
  { s with
    part := .active cand
    tornDisc := BitVec.ofNat 8 s.torn.length
    torn := []
    suspect := List.replicate cand.windows.length false
    rings := { a := freshRing cand.rings.a, b := freshRing cand.rings.b }
    seq := s.seq + 1
    result := .done
    attn := Both.same false }

/-- LOAD_DONE or LOAD_FAILED (R159). -/
def loadNotice (s : State) (p : Port) : Report :=
  match s.result with
  | .done =>
    { kind := .loadDone, port := some p,
      detail := BitVec.ofNat 8 (match s.map with | none => 0 | some m => m.windows.length),
      window := Config.noWindow, address := s.straps.imageBase, value := s.tornDisc.setWidth 32,
      dest := Both.same true }
  | r =>
    { kind := .loadFailed, port := some p, detail := r.code, window := Config.noWindow,
      address := s.straps.imageBase, value := 0, dest := Both.same true }

/-- The hold limit of FROM (R161). -/
def Load.holdLimit (ld : Load) : Nat :=
  match ld.from? with
  | none => Config.bareHoldLimit
  | some m => m.holdLimit.toNat

/-- The end of a load (R159, R160): deferred entries released, then the loader's notice and the two
held accesses in the order given (log entry 11). The Notice Unit makes its choice after the loader's
notice, as R159 says, and after what follows it (log entry 22). Between the three the arbiter grants a
waiting claim if it is so ordered (R100, log entry 24). -/
def State.endLoad (s : State) (ld : Load) (order : EndOrder) : State :=
  let s1 := s.releaseDeferred
  let report := loadNotice s1 ld.reqPort
  let take := fun (p : Port) (t : State) => t.retakeAfter ld.holdLimit p
  let notice := fun t : State => (t.raise report).chooseNotice
  let p := order.port
  let g1 := fun t : State => t.grantIf order.grantAfterFirst
  let g2 := fun t : State => t.grantIf order.grantAfterSecond
  match order.notice with
  | .first => (take p.other (g2 (take p (g1 (notice s1))).chooseNotice)).chooseNotice
  | .between => (take p.other (g2 (notice (g1 (take p s1))))).chooseNotice
  | .last => notice (g2 (take p.other (g1 (take p s1))))

/-- The state FROM, with the map it had (R158). -/
def Load.fromState (ld : Load) : PartState :=
  match ld.from? with
  | none => .bare
  | some m => .active m

/-- A load ends failed (R158). -/
def State.endFailed (s : State) (ld : Load) (order : EndOrder) : State :=
  ({ s with part := ld.fromState }).endLoad ld order

end Sys2Proof.Machine
end

