-- ==== Sys2Proof/Machine/Lines.lean ====
section
/-! DEFINITION. Meanings of RESET, RESET_RELEASE, STROBE_RELEASE, TIMEBASE_TICK, STRAY_ACKNOWLEDGE
and ACKNOWLEDGE_RELEASED: what the part's lines do to it. -/

namespace Sys2Proof.Machine

/-- What every meaning answers. -/
abbrev Result := Host.Outcome State Fault Refusal

/-- A write that RESET cuts off may have changed memory (R73, R108). -/
def State.cutOff (s : State) : State :=
  match s.granted with
  | none => s
  | some g =>
    match g.todo with
    | [] => s
    | w :: _ => s.landCut w

/-- RESET is asserted (R58, R95, R108, R138, R139, R163, R164, R171, R173): the part is emptied and
its outputs deasserted. The strobes, M_ACK and memory are outside it and stay. -/
def execReset (s : State) : Result :=
  let s1 := s.cutOff
  .next
    { s1 with
      resetAsserted := true
      pins := { a := { s.pins.a with out := .quiet }, b := { s.pins.b with out := .quiet } }
      attn := Both.same false
      timebase := 0
      refPeriods := 0
      part := .bare
      result := .inProgress
      seq := 0
      tornDisc := 0
      loaderClaim := none
      engines := Both.same Engine.empty
      pointer := .a
      granted := none
      torn := []
      suspect := []
      queue := []
      rings := Both.same Ring.unconfigured
      deferredLost := Both.same 0
      noticeClaim := none }

/-- A strobe still asserted at the release of RESET is taken as an arrival (R173). -/
def State.arriveAtRelease (s : State) (p : Port) : State :=
  match (s.pins.get p).strobe with
  | none => s
  | some l => s.takeAccess p (l.latch s.timebase)

/-- The strobes still asserted at the release of RESET are taken (R173). Of the claims of two of them,
made together at the idle Memory Port, either may be taken first and granted at once (R100): a free
value (log entry 24). -/
def State.arriveBoth (s : State) : State :=
  if (s.pins.a.strobe.isSome && s.pins.b.strobe.isSome) = true then
    let t := { s with freeCount := s.freeCount + 1 }
    match Config.freeOrder s.freeCount with
    | .together => (t.arriveAtRelease .a).arriveAtRelease .b
    | .first => (t.arriveAtRelease .a).arbitrate.arriveAtRelease .b
    | .second => (t.arriveAtRelease .b).arbitrate.arriveAtRelease .a
  else (s.arriveAtRelease .a).arriveAtRelease .b

/-- RESET is released (R141, R171, R173): the straps are latched and the Timebase starts from 0. -/
def execResetRelease (imgBase : BitVec 4) (imgOrd : ByteOrder) (ckSel : BitVec 2) (s : State) :
    Result :=
  if s.resetAsserted then
    let s1 : State :=
      { s with
        resetAsserted := false
        straps := { imgBase := imgBase, imgOrd := imgOrd, ckSel := ckSel }
        timebase := 0
        refPeriods := 0 }
    .next s1.arriveBoth
  else .next s

/-- The processor deasserts its strobe after READY or FAULT, and the line is deasserted (R166); or
it does so while RESET is asserted (R173). Before the end of its access nothing is taken (log entry
15). -/
def execStrobeRelease (p : Port) (s : State) : Result :=
  if (s.pins.get p).out ≠ .quiet ∨ s.resetAsserted = true then .next (s.setPins p Pins.quiet)
  else .next s

/-- One microsecond of reference clock passes (R171, R172). The Timebase holds 0 while RESET is
asserted. -/
def execTimebaseTick (s : State) : Result :=
  if s.resetAsserted then .next s
  else
    .next
      { s with timebase := s.timebase + 1, refPeriods := s.refPeriods + s.straps.periods }

/-- An acknowledge arrives while no word access is presented: it is discarded, and while it is held
no word access is presented (R174). -/
def execStrayAcknowledge (held : Bool) (s : State) : Result :=
  match s.presented with
  | some _ => .next s
  | none => .next { s with ackHigh := s.ackHigh || held }

/-- The memory releases M_ACK, and an issued word access that waits for it is presented (R174). -/
def execAcknowledgeReleased (s : State) : Result :=
  match s.granted with
  | none => .next { s with ackHigh := false }
  | some g => .next { s with ackHigh := false, granted := some { g with presented := true } }

end Sys2Proof.Machine
end

