-- ==== Sys2Proof/Machine/Accesses.lean ====
section
/-! DEFINITION. Meanings of the access rows. Each presents an access at a port (R165); what the
engine does with it follows from the part state and from its own classification (R10 to R20), which
the row's name does not override (log entry 2). -/

namespace Sys2Proof.Machine

/-- ACCESS_IN_BARE (R12): forwarded raw as a single read or write. -/
def execAccessInBare (p : Port) (addr : WAddr) (dir : Direction) (be : Lanes) (data : Word)
    (s : State) : Result :=
  .next (s.present p { addr := addr, dir := dir, be := be, data := data })

/-- HELD_ACCESS (R10, R145): held on arrival during LOADING. -/
def execHeldAccess (p : Port) (addr : WAddr) (dir : Direction) (be : Lanes) (data : Word)
    (s : State) : Result :=
  .next (s.present p { addr := addr, dir := dir, be := be, data := data })

/-- NULL_ACCESS (R11): all enables off; READY at once. -/
def execNullAccess (p : Port) (addr : WAddr) (dir : Direction) (data : Word) (s : State) :
    Result :=
  .next (s.present p { addr := addr, dir := dir, be := 0, data := data })

/-- RECORD_WRITE (R38): staged in a session, or opens one. -/
def execRecordWrite (p : Port) (addr : WAddr) (be : Lanes) (data : Word) (s : State) : Result :=
  .next (s.present p { addr := addr, dir := .write, be := be, data := data })

/-- RECORD_READ (R38, R79): an own read, a read served from a capture, or a new capture. -/
def execRecordRead (p : Port) (addr : WAddr) (be : Lanes) (s : State) : Result :=
  .next (s.present p { addr := addr, dir := .read, be := be, data := 0 })

/-- PLAIN_ACCESS (R18): tested for rights, converted, carried as a single operation. -/
def execPlainAccess (p : Port) (addr : WAddr) (dir : Direction) (be : Lanes) (data : Word)
    (s : State) : Result :=
  .next (s.present p { addr := addr, dir := dir, be := be, data := data })

/-- UNMAPPED_ACCESS (R19): carried raw or refused by the port's unmapped policy. -/
def execUnmappedAccess (p : Port) (addr : WAddr) (dir : Direction) (be : Lanes) (data : Word)
    (s : State) : Result :=
  .next (s.present p { addr := addr, dir := dir, be := be, data := data })

/-- RING_ACCESS (R16): a read of a ring word, or a write refused with RING_WRITE. -/
def execRingAccess (p : Port) (addr : WAddr) (dir : Direction) (be : Lanes) (data : Word)
    (s : State) : Result :=
  .next (s.present p { addr := addr, dir := dir, be := be, data := data })

/-- CONSUMER_WORD_WRITE (R130): a watched write or an ordinary consumer write. -/
def execConsumerWordWrite (p : Port) (addr : WAddr) (be : Lanes) (data : Word) (s : State) :
    Result :=
  .next (s.present p { addr := addr, dir := .write, be := be, data := data })

/-- REQUEST_WORD_WRITE (R142): tested for request form and LOADRIGHT. -/
def execRequestWordWrite (p : Port) (addr : WAddr) (be : Lanes) (data : Word) (s : State) :
    Result :=
  .next (s.present p { addr := addr, dir := .write, be := be, data := data })

/-- IMAGE_WORD_WRITE (R15): carried raw; it changes memory only. -/
def execImageWordWrite (p : Port) (addr : WAddr) (be : Lanes) (data : Word) (s : State) : Result :=
  .next (s.present p { addr := addr, dir := .write, be := be, data := data })

/-- IMAGE_WORD_READ (R15): carried raw as a single read. -/
def execImageWordRead (p : Port) (addr : WAddr) (be : Lanes) (s : State) : Result :=
  .next (s.present p { addr := addr, dir := .read, be := be, data := 0 })

end Sys2Proof.Machine
end

