-- ==== Sys2Proof/Machine/MemoryEvents.lean ====
section
/-! DEFINITION. Meanings of GRANT, WORD_ACCESS_COMPLETES and the single operations'
completions. A command whose event cannot take place in the state changes nothing (log entry 1). -/

namespace Sys2Proof.Machine

/-- GRANT (R99, R100). -/
def execGrant (s : State) : Result := .next s.arbitrate.chooseNotice

/-- The presented word access, if it is the last of its operation. -/
def State.lastAccess (s : State) : Option (Granted × WordAccess) :=
  match s.presented with
  | none => none
  | some (g, w) =>
    match g.todo with
    | [_] => some (g, w)
    | _ => none

/-- The word access in progress of a commit burst is its stamp read (R59, R61). -/
def State.atCommitStamp (s : State) (ses : Session) (g : Granted) : Bool :=
  (s.spec ses.window).stamp && decide (g.done = 0)

/-- WORD_ACCESS_COMPLETES (R64, R101): a word access other than the last of its operation, and other
than a commit's stamp read, completes, and the next one is issued. -/
def execWordAccessCompletes (ans : Answer) (s : State) : Result :=
  match s.presented with
  | none => .next s
  | some (g, w) =>
    let s1 := s.answer w ans
    let got := gotAfter g w (s.answerData w ans)
    match g.op, g.todo.tail with
    | .commit p false, rest =>
      match s.sessionFlight p .commit with
      | none => .next s
      | some (_, _, ses) =>
        if s.atCommitStamp ses g then .next s
        else .next (s1.nextCommitAccess p ses rest (g.done + 1) got)
    | _, [] => .next s
    | op, w' :: ws => .next (s1.issue op (w' :: ws) (g.done + 1) got)

/-- The canonical word of a completed single read: staged bytes merged for an own read (R50). -/
def Purpose.wordRead (purpose : Purpose) (d : Word) : Word :=
  match purpose with
  | .ownRead st => mergeLanes st.mask st.bytes d
  | _ => d

/-- The single operation that ends with READY and does nothing else (R15, R16, R18, R19, R50). -/
def State.endSingle (s : State) (p : Port) (acc : Access) (taken : Option Taken) (word : Word) :
    State :=
  s.endOp.endReady p acc (portWord acc taken word)

/-- SINGLE_OPERATION_COMPLETES (R18): the access ends READY with its data. -/
def execSingleOperationCompletes (ans : Answer) (s : State) : Result :=
  match s.lastAccess with
  | none => .next s
  | some (g, w) =>
    let s1 := s.answer w ans
    let d := s.answerData w ans
    match g.op with
    | .single p =>
      match s.inFlight p with
      | some (acc, taken, .single .ordinary) => .next (s1.endSingle p acc taken d)
      | some (acc, taken, .single (.ownRead st)) =>
        .next (s1.endSingle p acc taken ((Purpose.ownRead st).wordRead d))
      | _ => .next s
    | _ => .next s

/-- The entries of a ring in force. -/
def State.ringEntries (s : State) (p : Port) : Nat :=
  match s.ringPlace p with
  | none => 0
  | some pl => pl.cap.entries

/-- A consumer count is taken (R132). -/
def State.takeCount (s : State) (ring : Port) (c : Count) : State :=
  (s.setRing ring ((s.rings.get ring).take (s.ringEntries ring) c)).evaluateAttention ring

/-- CONSUMER_COUNT_TAKEN (R132): a valid watched write completes. -/
def execConsumerCountTaken (ans : Answer) (s : State) : Result :=
  match s.lastAccess with
  | none => .next s
  | some (g, w) =>
    match g.op with
    | .single p =>
      match s.inFlight p with
      | some (acc, _, .single (.watched ring c)) =>
        .next (((s.answer w ans).endOp.takeCount ring c).endReady p acc 0)
      | _ => .next s
    | _ => .next s

/-- REQUEST_WRITE_COMPLETES (R143, R144): the access ends READY and a load begins, unless one is in
progress. A claim that waits may be granted as the write ends, or after the events of `entry`, by
`grantFirst`, before LOADING is entered (log entries 10, 24); `entry`: what else meets at that moment
(log entries 11, 12). -/
def execRequestWriteCompletes (ans : Answer) (grantFirst : Bool) (entry : EntryOrder) (s : State) :
    Result :=
  match s.lastAccess with
  | none => .next s
  | some (g, w) =>
    match g.op with
    | .single p =>
      match s.inFlight p with
      | some (acc, _, .single (.request n)) =>
        let s1 := (s.answer w ans).endOp.endReady p acc 0
        if s.isLoading then .next s1
        else .next ((s1.grantIf ans.grantFirst).beginLoad p n grantFirst entry).chooseNotice
      | _ => .next s
    | _ => .next s

end Sys2Proof.Machine
end

