-- ==== Sys2Proof/Machine/LoadEvents.lean ====
section
/-! DEFINITION. Meanings of the load's events after LOADING is entered (R147 to R160). -/

namespace Sys2Proof.Machine

/-- IN_PROGRESS_WRITE_COMPLETES (R147): DRAINING. -/
def execInProgressWriteCompletes (ans : Answer) (s : State) : Result :=
  match s.lastAccess with
  | none => .next s
  | some (g, w) =>
    match g.op, s.part with
    | .status, .loading ld =>
      match ld.phase with
      | .starting => .next ((s.answer w ans).endOp.toPhase ld .draining)
      | _ => .next s
    | _, _ => .next s

/-- DRAINED (R136, R148): READING, with the image read claimed. -/
def execDrained (s : State) : Result :=
  match s.part with
  | .loading ld =>
    match ld.phase with
    | .draining =>
      if s.drained then
        .next { s.toPhase ld .reading with loaderClaim := some .imageRead }
      else .next s
    | _ => .next s
  | _ => .next s

/-- IMAGE_READ_COMPLETES (R149, R150): the image is validated. -/
def execImageReadCompletes (ans : Answer) (s : State) : Result :=
  match s.lastAccess with
  | none => .next s
  | some (g, w) =>
    match g.op, s.part with
    | .imageRead, .loading ld =>
      match ld.phase with
      | .reading =>
        let raw := gotAfter g w (s.answerData w ans)
        .next ((s.answer w ans).endOp.applyVerdict ld (validate s.straps ld.reqN raw))
      | _ => .next s
    | _, _ => .next s

/-- RING_HEADER_WRITE_COMPLETES (R156): the next installing write is claimed. -/
def execRingHeaderWriteCompletes (ans : Answer) (s : State) : Result :=
  match s.lastAccess with
  | none => .next s
  | some (g, w) =>
    match g.op, s.part with
    | .ringHeader ring, .loading ld =>
      match ld.phase with
      | .installing cand => .next ((s.answer w ans).endOp.claimAfterHeader cand ring)
      | _ => .next s
    | _, _ => .next s

/-- DONE_WRITE_COMPLETES (R157, R159, R160): the map and the rings are installed and the load ends
with DONE. -/
def execDoneWriteCompletes (ans : Answer) (order : EndOrder) (s : State) : Result :=
  match s.lastAccess with
  | none => .next s
  | some (g, w) =>
    match g.op, s.part with
    | .status, .loading ld =>
      match ld.phase with
      | .installing cand =>
        .next (((s.answer w ans).endOp.install cand).endLoad ld order)
      | _ => .next s
    | _, _ => .next s

/-- The word access in progress has reached the memory limit unanswered (R103). -/
def State.memoryDue (s : State) : Option (Granted × WordAccess) :=
  match s.granted with
  | none => none
  | some g =>
    match g.todo with
    | [] => none
    | w :: _ => if g.limit ≤ age s.timebase g.timer then some (g, w) else none

/-- The last status word write of REPORTING is the one in progress, and how it ends is possible now:
any that is answered is the last; one that expires is the last if it carries MEMORY (R158). -/
def State.reportingEnd (s : State) (how : WriteEnd) : Option State :=
  match how with
  | .completes ans =>
    match s.lastAccess with
    | none => none
    | some (g, w) => if g.op = .status then some (s.answer w ans).endOp else none
  | .expires =>
    match s.memoryDue with
    | none => none
    | some (g, w) =>
      if g.op = .status ∧ s.result = .memory then some (s.landExpired w).endOp else none

/-- FAILURE_STATUS_WRITE_ENDS (R158 to R160): the load ends failed, returning to FROM. A claim that
waits may be granted as the write ends (R100, log entry 24). -/
def execFailureStatusWriteEnds (how : WriteEnd) (order : EndOrder) (s : State) : Result :=
  match s.part with
  | .loading ld =>
    match ld.phase, s.reportingEnd how with
    | .reporting, some s1 => .next ((s1.grantIf order.grantAtEnd).endFailed ld order)
    | _, _ => .next s
  | _ => .next s

end Sys2Proof.Machine
end

