-- ==== Sys2Proof/Machine/RecordEvents.lean ====
section
/-! DEFINITION. Meanings of the completions that serve sessions and captures (R43, R61 to R68, R83
to R87). -/

namespace Sys2Proof.Machine

/-- STAMP_READ_COMPLETES (R43): BASEGEN is set, the write is staged, and the session becomes OPEN or
CLOSING; in LOADING R57 and R146 then apply. -/
def execStampReadCompletes (ans : Answer) (s : State) : Result :=
  match s.lastAccess with
  | none => .next s
  | some (g, w) =>
    match g.op with
    | .stampRead p =>
      match s.sessionFlight p .stampRead with
      | none => .next s
      | some (acc, t, ses) =>
        let gen := lowHalf (s.answerData w ans)
        let ses1 := { ses with baseGen := some gen, opened := some s.timebase }
        .next
          ((((s.answer w ans).endOp.stageWrite p acc t ses1 t.recordOf.2.2.1).clearIfLoading
            p).chooseNotice)
    | _ => .next s

/-- A stale commit: the session is discarded, FAULT, STALE (R62, R63). A claim that waits may be granted
as the burst ends, before the Notice Unit claims for STALE (R100, log entry 24). -/
def State.endStale (s : State) (p : Port) (acc : Access) (ses : Session) (found : Count)
    (grantFirst : Bool) : State :=
  (((s.endOp.freeSession p ses.window ses.record).endFault p acc).raise
    (staleReport p ses found)).chooseAfter grantFirst

/-- The commit is stale (R62): a GUARDED window, and the found generation is not BASEGEN. -/
def isStale (spec : RecordSpec) (ses : Session) (found : Count) : Bool :=
  match spec.policy with
  | .last => false
  | .guarded => found != ses.baseGen.getD 0

/-- COMMIT_STAMP_READ_COMPLETES (R61, R62): the found generation; stale, or the burst goes on. -/
def execCommitStampReadCompletes (ans : Answer) (s : State) : Result :=
  match s.presented with
  | none => .next s
  | some (g, w) =>
    match g.op with
    | .commit p false =>
      match s.sessionFlight p .commit with
      | none => .next s
      | some (acc, _, ses) =>
        let d := s.answerData w ans
        let s1 := s.answer w ans
        if s.atCommitStamp ses g then
          if isStale (s.spec ses.window) ses (lowHalf d) then
            .next (s1.endStale p acc ses (lowHalf d) ans.grantFirst)
          else .next (s1.nextCommitAccess p ses g.todo.tail (g.done + 1) (gotAfter g w d))
        else .next s
    | _ => .next s

/-- The record's entry leaves the Torn Record List (R112). -/
def State.healTorn (s : State) (base : WAddr) (window : Nat) : State :=
  { s with torn := s.torn.filter fun e => e != { base := base, window := window } }

/-- COMMIT_BURST_COMPLETES (R68, R112): committed. -/
def execCommitBurstCompletes (ans : Answer) (s : State) : Result :=
  match s.lastAccess with
  | none => .next s
  | some (g, w) =>
    match g.op with
    | .commit p true =>
      match s.sessionFlight p .commit with
      | none => .next s
      | some (acc, _, ses) =>
        .next
          ((((s.answer w ans).endOp.healTorn ses.base ses.window).freeSession p ses.window
            ses.record).endReady p acc 0)
    | _ => .next s

/-- The check test of a capture that is not BAD(TORN) fails (R85). -/
def State.mismatch (s : State) (c : Capture) (words : List Word) : Bool :=
  !s.foundTorn c.base c.window && (s.spec c.window).check && !checkHolds words

/-- A capture burst's words are stored and verified, a mismatch is reported, and the word asked for
is served (R83 to R87). -/
def State.fillCapture (s : State) (p : Port) (acc : Access) (t : Taken) (c : Capture)
    (words : List Word) : State :=
  let l : Live :=
    { bad := s.foundTorn c.base c.window || s.mismatch c words, words := words,
      filled := s.timebase }
  let s1 := if s.mismatch c words then s.raise (mismatchReport p c words) else s
  s1.serve p acc t { c with live := some l } l t.recordOf.2.2.1

/-- CAPTURE_BURST_COMPLETES (R83); in LOADING R94 then applies. A claim that waits may be granted as
the burst ends, before the Notice Unit claims for a mismatch (R100, log entry 24). -/
def execCaptureBurstCompletes (ans : Answer) (s : State) : Result :=
  match s.lastAccess with
  | none => .next s
  | some (g, w) =>
    match g.op with
    | .capture p =>
      match s.captureFlight p with
      | none => .next s
      | some (acc, t, c) =>
        let words := gotAfter g w (s.answerData w ans)
        .next
          ((((s.answer w ans).endOp.fillCapture p acc t c words).clearIfLoading p).chooseAfter
            ans.grantFirst)
    | _ => .next s

end Sys2Proof.Machine
end

