-- ==== Sys2Proof/Machine/Expiries.lean ====
section
/-! DEFINITION. Meanings of the four expiries: memory limit, hold limit, session limit, capture
limit. A limit that has not been reached expires nothing (log entry 1). -/

namespace Sys2Proof.Machine

/-! ## Memory limit (R104) -/

/-- A single operation expires (R51, R105, R106, R132): FAULT, and MEM_TIMEOUT unless the access
was taken in BARE. -/
def State.expireSingle (s : State) (p : Port) : State :=
  match s.inFlight p with
  | some (acc, taken, .single purpose) =>
    let s1 := (s.unwatch (.single purpose)).endFault p acc
    match taken with
    | none => s1
    | some t =>
      s1.raise (timeoutReport p (singleDetail acc.dir) t.cls.windowField acc.addr 0)
  | _ => s

/-- The stamp read of an OPENING session expires (R44). The notice's VALUE is free (log entry 8). -/
def State.expireStampRead (s : State) (p : Port) : State :=
  match s.flight p .stampRead with
  | some (acc, t) =>
    let key := t.recordOf
    let s1 := (s.freeSession p key.1 key.2.1).endFault p acc
    { s1.raise (timeoutReport p .stampRead (BitVec.ofNat 5 key.1) key.2.2.2
        (Config.freeWord s.freeCount)) with freeCount := s.freeCount + 1 }
  | none => s

/-- A capture burst expires (R92): the value is the word offset of the expired read. -/
def State.expireCapture (s : State) (p : Port) (g : Granted) : State :=
  match s.flight p .capture with
  | some (acc, t) =>
    let key := t.recordOf
    ((s.freeCapture p key.1 key.2.1).endFault p acc).raise
      (timeoutReport p .capture (BitVec.ofNat 5 key.1) key.2.2.2 (BitVec.ofNat 32 g.done))
  | none => s

/-- A commit burst expires in its reading phase (R70): the value is the word offset of the expired
read. -/
def State.expireReading (s : State) (p : Port) (w : WordAccess) : State :=
  match s.flight p .commit with
  | some (acc, t) =>
    let key := t.recordOf
    ((s.freeSession p key.1 key.2.1).endFault p acc).raise
      (timeoutReport p .commit (BitVec.ofNat 5 key.1) key.2.2.2
        ((w.addr - key.2.2.2).setWidth 32))
  | none => s

/-- A torn record is entered in the Torn Record List, or makes its window SUSPECT if the list is
full of others (R110, R111). -/
def State.enterTorn (s : State) (base : WAddr) (window : Nat) : State :=
  let e : TornEntry := { base := base, window := window }
  if e ∈ s.torn then s
  else if s.torn.length < Config.tornSlots then { s with torn := s.torn ++ [e] }
  else if s.suspect.getD window false then s
  else { s with suspect := s.suspect.set window true }.raise (suspectReport window base)

/-- A commit burst expires in its writing phase: torn (R71). -/
def State.expireWriting (s : State) (p : Port) (g : Granted) : State :=
  match s.flight p .commit with
  | some (acc, t) =>
    let key := t.recordOf
    (((s.enterTorn key.2.2.2 key.1).freeSession p key.1 key.2.1).endFault p acc).raise
      (tornReport p key.1 key.2.2.2 (g.done - g.got.length)
        (foundGeneration (s.spec key.1) g.got))
  | none => s

/-- A notice burst expires (R128): an entry burst's notice is counted in PLOST. -/
def State.expireNotice (s : State) (p : Port) (entry handles : Bool) : State :=
  let r := s.rings.get p
  let r' := { r with plost := if entry then satAdd r.plost 1 else r.plost, lrep := false }
  if handles then (s.setRing p r').handled p else s.setRing p r'

/-- A loader operation expires (R147, R149, R156, R158). The operation has ended, so a claim that waits
may be granted before the loader's next one is made (R100, log entry 24). -/
def State.expireLoader (s : State) (order : EndOrder) : State :=
  let t := s.grantIf order.grantAtEnd
  match s.part with
  | .loading ld =>
    match ld.phase with
    | .reporting => if s.result = .memory then t.endFailed ld order else t.failLoad ld .memory
    | _ => t.failLoad ld .memory
  | _ => s

/-- The outcome of an expiry by kind of operation (R104), and the Notice Unit's choice. A claim that
waits may be granted as the operation ends, before the claims that its end leads to (R100, log entry
24). -/
def State.expire (s : State) (g : Granted) (w : WordAccess) (order : EndOrder) : State :=
  match g.op with
  | .single p => (s.expireSingle p).chooseAfter order.grantAtEnd
  | .stampRead p => (s.expireStampRead p).chooseAfter order.grantAtEnd
  | .capture p => (s.expireCapture p g).chooseAfter order.grantAtEnd
  | .commit p false => (s.expireReading p w).chooseAfter order.grantAtEnd
  | .commit p true => (s.expireWriting p g).chooseAfter order.grantAtEnd
  | .entry p _ => (s.expireNotice p true true).chooseAfter order.grantAtEnd
  | .fullRing p _ => (s.expireNotice p false true).chooseAfter order.grantAtEnd
  | .lossReport p _ => (s.expireNotice p false false).chooseAfter order.grantAtEnd
  | .imageRead => (s.expireLoader order).chooseNotice
  | .ringHeader _ => (s.expireLoader order).chooseNotice
  | .status => (s.expireLoader order).chooseNotice

/-- MEMORY_LIMIT_EXPIRES (R104). -/
def execMemoryLimitExpires (order : EndOrder) (s : State) : Result :=
  match s.memoryDue with
  | none => .next s
  | some (g, w) => .next ((s.landExpired w).endOp.expire g w order)

/-! ## Hold limit, session limit, capture limit -/

/-- What an expiry leaves once its notice is received, and the Notice Unit's choice; nothing if it is
not due. -/
def State.expireNow (s : State) (x : Option (State × Report)) : State :=
  match x with
  | none => s
  | some (t, r) => (t.raise r).chooseNotice

/-- HOLD_LIMIT_EXPIRES (R161, R168): the access ends FAULT; in BARE its notice is discarded, which
is that none is raised (R118). -/
def execHoldLimitExpires (p : Port) (s : State) : Result := .next (s.expireNow (s.holdExpiry p))

/-- SESSION_LIMIT_EXPIRES (R53): an OPEN session is abandoned with reason EXPIRY. -/
def execSessionLimitExpires (p : Port) (window record : Nat) (s : State) : Result :=
  .next (s.expireNow (s.sessionExpiry p window record))

/-- CAPTURE_LIMIT_EXPIRES (R89): a LIVE capture is freed silently. -/
def execCaptureLimitExpires (p : Port) (window record : Nat) (s : State) : Result :=
  match (s.engines.get p).captureOf window record with
  | none => .next s
  | some c =>
    match c.live with
    | none => .next s
    | some l =>
      if s.limitReached s.captureLimit l.filled then .next (s.freeCapture p window record)
      else .next s

end Sys2Proof.Machine
end

