-- ==== Sys2Proof/Machine/NoticeEvents.lean ====
section
/-! DEFINITION. Meanings of the completions of the three forms of a notice burst (R125 to R127). -/

namespace Sys2Proof.Machine

/-- The severity of the head entry's notice. -/
def State.headSeverity (s : State) : BitVec 2 :=
  match s.queue with
  | [] => 0
  | e :: _ => e.notice.severity

/-- ENTRY_BURST_COMPLETES (R125). -/
def execEntryBurstCompletes (ans : Answer) (s : State) : Result :=
  match s.lastAccess with
  | none => .next s
  | some (g, w) =>
    match g.op with
    | .entry p carried =>
      let r := (s.rings.get p).entered (s.ringEntries p) s.headSeverity w.data carried
      .next
        (((((s.answer w ans).endOp.setRing p r).handled p).evaluateAttention p).chooseNotice)
    | _ => .next s

/-- FULL_RING_BURST_COMPLETES (R126). -/
def execFullRingBurstCompletes (ans : Answer) (s : State) : Result :=
  match s.lastAccess with
  | none => .next s
  | some (g, w) =>
    match g.op with
    | .fullRing p carried =>
      let r := (s.rings.get p).reported w.data carried
      .next ((((s.answer w ans).endOp.setRing p r).handled p).chooseNotice)
    | _ => .next s

/-- LOSS_REPORT_COMPLETES (R127). -/
def execLossReportCompletes (ans : Answer) (s : State) : Result :=
  match s.lastAccess with
  | none => .next s
  | some (g, w) =>
    match g.op with
    | .lossReport p carried =>
      let r := (s.rings.get p).reported w.data carried
      .next (((s.answer w ans).endOp.setRing p r).chooseNotice)
    | _ => .next s

end Sys2Proof.Machine
end

