-- ==== Sys2Proof/Machine/Dispatch.lean ====
section
/-! DEFINITION. exec: one arm per row of spec/opcode_table.json, each one call of its meaning. -/

namespace Sys2Proof.Machine

def exec (i : Instr) (s : State) : Host.Outcome State Fault Refusal :=
  match i with
  | .reset => Sys2Proof.Machine.execReset s
  | .resetRelease imgBase imgOrd ckSel => Sys2Proof.Machine.execResetRelease imgBase imgOrd ckSel s
  | .strobeRelease p => Sys2Proof.Machine.execStrobeRelease p s
  | .accessInBare p addr dir be data => Sys2Proof.Machine.execAccessInBare p addr dir be data s
  | .heldAccess p addr dir be data => Sys2Proof.Machine.execHeldAccess p addr dir be data s
  | .nullAccess p addr dir data => Sys2Proof.Machine.execNullAccess p addr dir data s
  | .recordWrite p addr be data => Sys2Proof.Machine.execRecordWrite p addr be data s
  | .recordRead p addr be => Sys2Proof.Machine.execRecordRead p addr be s
  | .plainAccess p addr dir be data => Sys2Proof.Machine.execPlainAccess p addr dir be data s
  | .unmappedAccess p addr dir be data => Sys2Proof.Machine.execUnmappedAccess p addr dir be data s
  | .ringAccess p addr dir be data => Sys2Proof.Machine.execRingAccess p addr dir be data s
  | .consumerWordWrite p addr be data => Sys2Proof.Machine.execConsumerWordWrite p addr be data s
  | .requestWordWrite p addr be data => Sys2Proof.Machine.execRequestWordWrite p addr be data s
  | .imageWordWrite p addr be data => Sys2Proof.Machine.execImageWordWrite p addr be data s
  | .grant => Sys2Proof.Machine.execGrant s
  | .wordAccessCompletes ans => Sys2Proof.Machine.execWordAccessCompletes ans s
  | .singleOperationCompletes ans => Sys2Proof.Machine.execSingleOperationCompletes ans s
  | .consumerCountTaken ans => Sys2Proof.Machine.execConsumerCountTaken ans s
  | .requestWriteCompletes ans grantFirst entry => Sys2Proof.Machine.execRequestWriteCompletes ans grantFirst entry s
  | .stampReadCompletes ans => Sys2Proof.Machine.execStampReadCompletes ans s
  | .commitStampReadCompletes ans => Sys2Proof.Machine.execCommitStampReadCompletes ans s
  | .commitBurstCompletes ans => Sys2Proof.Machine.execCommitBurstCompletes ans s
  | .captureBurstCompletes ans => Sys2Proof.Machine.execCaptureBurstCompletes ans s
  | .entryBurstCompletes ans => Sys2Proof.Machine.execEntryBurstCompletes ans s
  | .fullRingBurstCompletes ans => Sys2Proof.Machine.execFullRingBurstCompletes ans s
  | .lossReportCompletes ans => Sys2Proof.Machine.execLossReportCompletes ans s
  | .inProgressWriteCompletes ans => Sys2Proof.Machine.execInProgressWriteCompletes ans s
  | .drained => Sys2Proof.Machine.execDrained s
  | .imageReadCompletes ans => Sys2Proof.Machine.execImageReadCompletes ans s
  | .ringHeaderWriteCompletes ans => Sys2Proof.Machine.execRingHeaderWriteCompletes ans s
  | .doneWriteCompletes ans order => Sys2Proof.Machine.execDoneWriteCompletes ans order s
  | .failureStatusWriteEnds how order => Sys2Proof.Machine.execFailureStatusWriteEnds how order s
  | .memoryLimitExpires order => Sys2Proof.Machine.execMemoryLimitExpires order s
  | .strayAcknowledge held => Sys2Proof.Machine.execStrayAcknowledge held s
  | .holdLimitExpires p => Sys2Proof.Machine.execHoldLimitExpires p s
  | .sessionLimitExpires p window record => Sys2Proof.Machine.execSessionLimitExpires p window record s
  | .captureLimitExpires p window record => Sys2Proof.Machine.execCaptureLimitExpires p window record s
  | .imageWordRead p addr be => Sys2Proof.Machine.execImageWordRead p addr be s
  | .timebaseTick => Sys2Proof.Machine.execTimebaseTick s
  | .acknowledgeReleased => Sys2Proof.Machine.execAcknowledgeReleased s

end Sys2Proof.Machine
end

