-- ==== Sys2Proof/Safety.lean ====
section
/-! DEFINITION. The terms the statements use: which commands present an access, when a port takes
one, the tables of the spec that say how each class is handled, and the invariants of the part. -/

namespace Sys2Proof.Machine

/-! ## Accesses -/

/-- The port and the lines of a command that presents an access (R165). -/
def accessOf : Instr → Option (Port × Lines)
  | .accessInBare p addr dir be data => some (p, { addr := addr, dir := dir, be := be, data := data })
  | .heldAccess p addr dir be data => some (p, { addr := addr, dir := dir, be := be, data := data })
  | .nullAccess p addr dir data => some (p, { addr := addr, dir := dir, be := 0, data := data })
  | .recordWrite p addr be data => some (p, { addr := addr, dir := .write, be := be, data := data })
  | .recordRead p addr be => some (p, { addr := addr, dir := .read, be := be, data := 0 })
  | .plainAccess p addr dir be data => some (p, { addr := addr, dir := dir, be := be, data := data })
  | .unmappedAccess p addr dir be data =>
    some (p, { addr := addr, dir := dir, be := be, data := data })
  | .ringAccess p addr dir be data => some (p, { addr := addr, dir := dir, be := be, data := data })
  | .consumerWordWrite p addr be data =>
    some (p, { addr := addr, dir := .write, be := be, data := data })
  | .requestWordWrite p addr be data =>
    some (p, { addr := addr, dir := .write, be := be, data := data })
  | .imageWordWrite p addr be data => some (p, { addr := addr, dir := .write, be := be, data := data })
  | .imageWordRead p addr be => some (p, { addr := addr, dir := .read, be := be, data := 0 })
  | .reset | .resetRelease _ _ _ | .strobeRelease _ | .grant | .wordAccessCompletes _
  | .singleOperationCompletes _ | .consumerCountTaken _ | .requestWriteCompletes _ _ _
  | .stampReadCompletes _ | .commitStampReadCompletes _ | .commitBurstCompletes _
  | .captureBurstCompletes _ | .entryBurstCompletes _ | .fullRingBurstCompletes _
  | .lossReportCompletes _ | .inProgressWriteCompletes _ | .drained | .imageReadCompletes _
  | .ringHeaderWriteCompletes _ | .doneWriteCompletes _ _ | .failureStatusWriteEnds _ _
  | .memoryLimitExpires _ | .strayAcknowledge _ | .holdLimitExpires _ | .sessionLimitExpires _ _ _
  | .captureLimitExpires _ _ _ | .timebaseTick | .acknowledgeReleased => none

/-- A strobe asserted now at the port is taken as an arrival (R165, R173): the strobe was
deasserted, RESET is released, the engine is IDLE. -/
def State.Accepts (s : State) (p : Port) : Prop :=
  (s.pins.get p).strobe = none ∧ s.resetAsserted = false ∧ (s.engines.get p).estate = .idle

/-- The state with one port's engine and pins replaced, all else as it was. -/
def State.withPort (s : State) (p : Port) (e : Engine) (x : Pins) : State :=
  { s with engines := s.engines.set p e, pins := s.pins.set p x }

/-- The state in which a port presents these lines and its engine has gone to this ESTATE, its
tables and the ending lines as they were. -/
def State.arrived (s : State) (p : Port) (l : Lines) (e : EState) : State :=
  s.withPort p { s.engines.get p with estate := e }
    { strobe := some l, out := (s.pins.get p).out }

/-- The state in which a port presents these lines and the access has ended at once. -/
def State.endedAtOnce (s : State) (p : Port) (l : Lines) (o : PortOut) : State :=
  s.withPort p { s.engines.get p with estate := .idle } { strobe := some l, out := o }

/-- The state in which the access in flight at a port has ended, its tables replaced: the engine is
IDLE and the port shows the ending, the strobe as it was. -/
def State.ended (s : State) (p : Port) (ss : List Session) (cs : List Capture) (o : PortOut) :
    State :=
  s.withPort p { estate := .idle, sessions := ss, captures := cs } { s.pins.get p with out := o }

/-- The data lines of an access that ends with this word: driven on a read alone (R166). -/
def dataOn (dir : Direction) (w : Word) : Option Word :=
  match dir with
  | .read => some w
  | .write => none

/-! ## How each class is handled: the tables of R14 to R20 -/

/-- The reason for which an access of a class is refused, by the table of R20; none if it is not
refused. -/
def refusalOf (m : RecordMap) (imgOrd : ByteOrder) (p : Port) (l : Lines) (cls : Class) :
    Option RefusalReason :=
  match cls, l.dir with
  | .image .request, .write =>
    if (requestLength imgOrd l.be l.data).isSome && !(m.settings.get p).loadRight
      then some .loadRight else none
  | .image _, _ => none
  | .ring _ .consumer, _ => none
  | .ring _ _, .write => some .ringWrite
  | .ring _ _, .read => none
  | .record w _ _ _ _, .read => if m.rightsIn p w = .none then some .noRead else none
  | .record w _ _ _ role, .write =>
    if m.rightsIn p w = .readWrite then
      match role with
      | .stamp => some .stampWord
      | .check => some .checkWord
      | .data _ => none
    else some .noWrite
  | .plain w, .read => if m.rightsIn p w = .none then some .noRead else none
  | .plain w, .write => if m.rightsIn p w = .readWrite then none else some .noWrite
  | .unmapped, .read =>
    if (m.settings.get p).unmapped = .refuse then some .unmapped else none
  | .unmapped, .write =>
    if (m.settings.get p).unmapped = .pass then none else some .unmapped

/-- An access that is not refused is carried to memory as one single operation that only ends it
(R15, R16, R18, R19, R130): every such access of a class IMAGE, RING, PLAIN or UNMAPPED but a
request write and a watched write. `be` is its canonical enables. -/
def carriedSingly (imgOrd : ByteOrder) (l : Lines) (cls : Class) (be : Lanes) : Prop :=
  match cls, l.dir with
  | .record _ _ _ _ _, _ => False
  | .image .request, .write => requestLength imgOrd l.be l.data = none
  | .ring _ .consumer, .write => ¬ (enabled be 0 = true ∧ enabled be 1 = true)
  | _, _ => True

/-- The class of the accesses at a word address under the map in force. -/
def State.classOf (s : State) (m : RecordMap) (l : Lines) : Class :=
  classify m s.straps.imageBase l.addr

/-- The access as it is taken: its class, the word pattern as the port's ORDER makes it act, the
canonical enables and data (R25, R28, R29). -/
def State.takenOf (s : State) (m : RecordMap) (p : Port) (l : Lines) : Taken :=
  let conv := (m.pattern (s.classOf m l)).underOrder (m.settings.get p).order
  { cls := s.classOf m l, conv := conv, be := mirrorLanes conv l.be, data := mirrorWord conv l.data }

/-- The access of a port is taken in ACTIVE, is not null and is not refused. -/
def State.Admits (s : State) (m : RecordMap) (p : Port) (l : Lines) : Prop :=
  s.Accepts p ∧ s.part = .active m ∧ l.be ≠ 0
    ∧ refusalOf m s.straps.imgOrd p l (s.classOf m l) = none

/-! ## The word access on the bus -/

/-- The word access in progress is presented and is the last of its operation. -/
def State.LastOnBus (s : State) (g : Granted) (w : WordAccess) : Prop :=
  s.granted = some g ∧ g.presented = true ∧ g.todo = [w]

/-- The word access in progress is presented, and these are still to come. -/
def State.OnBus (s : State) (g : Granted) (w : WordAccess) (rest : List WordAccess) : Prop :=
  s.granted = some g ∧ g.presented = true ∧ g.todo = w :: rest

/-- The word access in progress has reached the memory limit (R103). -/
def State.Overdue (s : State) (g : Granted) (w : WordAccess) (rest : List WordAccess) : Prop :=
  s.granted = some g ∧ g.todo = w :: rest ∧ g.limit ≤ age s.timebase g.timer

/-- An operation of a port engine is carried for this access. -/
def State.Carries (s : State) (p : Port) (acc : Access) (t : Option Taken) (job : Job) : Prop :=
  (s.engines.get p).estate = .inMemory acc t job .granted

/-- The word access of an operation just issued at index `done`, and its successors. -/
def State.issued (s : State) (op : Op) (todo : List WordAccess) (done : Nat) (got : List Word) :
    Granted :=
  { op := op, todo := todo, done := done, got := got, timer := s.timebase, limit := s.memoryLimit,
    presented := !s.ackHigh }

/-- The single operation an access of BARE claims: a request write at the request word in request
form, an ordinary one otherwise (R12, R142). -/
def barePurpose (st : Straps) (l : Lines) : Purpose :=
  match l.dir with
  | .read => .ordinary
  | .write =>
    if l.addr = st.imageBase then
      match requestLength st.imgOrd l.be l.data with
      | some n => .request n
      | none => .ordinary
    else .ordinary

/-- The first claimant with a waiting claim in the rotation order from POINTER on (R99). -/
def State.RotationPicks (s : State) (r : Rotor) : Prop :=
  s.waits r = true ∧
    (r = s.pointer
      ∨ (s.waits s.pointer = false ∧ r = s.pointer.next)
      ∨ (s.waits s.pointer = false ∧ s.waits s.pointer.next = false ∧ r = s.pointer.next.next))

/-- The rotation's name of a port. -/
def rotorOf : Port → Rotor
  | .a => .a
  | .b => .b

/-- The arbiter is free, the loader claims nothing, and the rotation picks this claimant. -/
def State.PicksNext (s : State) (r : Rotor) : Prop :=
  s.granted = none ∧ s.loaderClaim = none ∧ s.RotationPicks r

/-- The memory has answered the last word access of the carried operation, which ends. -/
def State.answered (s : State) (w : WordAccess) (ans : Answer) : State :=
  { s.answer w ans with granted := none }

/-- The word access in progress has expired, and its operation ends (R104). -/
def State.expired (s : State) (w : WordAccess) : State := { s.landExpired w with granted := none }

/-- The word that reaches the port of an access (R29): mirrored back, zero on lanes not enabled. -/
def portLines (acc : Access) (t : Taken) (w : Word) : Word := pickLanes acc.be (mirrorWord t.conv w)

/-- The engine's state with another arrival time for its access (R10, R160). -/
def EState.since (e : EState) (arrived : Time) : EState :=
  match e with
  | .idle => .idle
  | .held acc => .held { acc with arrived := arrived }
  | .inMemory acc t job c => .inMemory { acc with arrived := arrived } t job c

/-! ## Records -/

/-- The class of a word of a record. -/
def IsRecord (cls : Class) (window record offset : Nat) (base : WAddr) : Prop :=
  ∃ role, cls = .record window record offset base role

/-- The sessions of a port once a slot is free for one more: all of them, or all but the first in
the opening order (R39, R40). -/
def roomForSession (t : List Session) : List Session := if t.length < 4 then t else t.tail

/-- The abandonment that making room for a session reports, if it evicts one (R40, R56). -/
def State.reportEviction (s : State) (p : Port) (t : List Session) : State :=
  if t.length < 4 then s
  else
    match t.head? with
    | none => s
    | some ses => s.raise (abandonedReport p ses .evicted)

/-- The captures of a port once a slot is free for one more, the capture of the record itself gone
(R80, R81). -/
def roomForCapture (window record : Nat) (t : List Capture) : List Capture :=
  let kept := t.filter fun c => !(c.window == window && c.record == record)
  if kept.length < 4 then kept else kept.tail

/-- The sessions of a port without those of a record. -/
def sessionsBut (window record : Nat) (t : List Session) : List Session :=
  t.filter fun x => !(x.window == window && x.record == record)

/-- The captures of a port without those of a record. -/
def capturesBut (window record : Nat) (t : List Capture) : List Capture :=
  t.filter fun x => !(x.window == window && x.record == record)

/-! ## The tests of an image (R151 to R154, R175 to R177) -/

/-- Bits `lo` to `lo + len - 1` of image word `i`, as read in IMGORD order (spec/10). -/
def imageBits (ws : List Word) (i lo len : Nat) : Nat := (ws.getD i 0).toNat / 2 ^ lo % 2 ^ len

/-- What the FORMAT test asks (R151, R175). -/
def ImageFormat (ws : List Word) : Prop :=
  let f := imageBits ws
  f 2 0 8 = 1 ∧ f 2 8 8 ≤ 24 ∧ f 2 16 8 ≤ 8
    ∧ (∀ i ∈ [4, 5], f i 0 2 ≤ 1 ∧ f i 2 2 ≤ 2 ∧ f i 4 3 ≤ 4)
    ∧ f 7 0 16 ≠ 0 ∧ f 7 16 16 ≠ 0 ∧ f 7 16 16 ≤ 255

/-- What the RANGE test asks of the window entry at image word `i` (R153, R176). -/
def EntryRange (ws : List Word) (i : Nat) : Prop :=
  let f := imageBits ws
  let base := f i 0 20
  f (i + 1) 0 2 ≤ 2 ∧ f (i + 1) 2 2 ≤ 2
    ∧ ((f i 20 2 = 0 ∧ f (i + 1) 16 3 ∈ [1, 2, 4] ∧ 1 ≤ f (i + 3) 0 21 ∧ f (i + 3) 0 21 ≤ 1048576
          ∧ base + f (i + 3) 0 21 ≤ 1048576)
      ∨ (f i 20 2 = 1 ∧ f (i + 1) 4 2 ≤ 1 ∧ f (i + 1) 6 2 ≤ 1 ∧ 2 ≤ f (i + 2) 0 6
          ∧ f (i + 2) 0 6 ≤ 32 ∧ 1 ≤ f (i + 2) 16 13 ∧ f (i + 2) 16 13 ≤ 4096
          ∧ base + f (i + 2) 0 6 * f (i + 2) 16 13 ≤ 1048576))

/-- What the RANGE test asks of every window entry (R153). -/
def ImageRange (ws : List Word) : Prop := ∀ k < imageBits ws 2 8 8, EntryRange ws (13 + 4 * k)

/-- The element widths that a run byte describes (spec/10). -/
def runWidths (b : Nat) : List Nat :=
  match b / 64 with
  | 0 => List.replicate (b % 64 + 1) 1
  | 1 => List.replicate (b % 64 + 65) 1
  | 2 => List.replicate (b % 64 + 1) 2
  | _ => List.replicate (b % 64 + 1) 4

/-- The element widths of the layout entry at image word `i`, run after run. -/
def entryWidths (ws : List Word) (i : Nat) : List Nat :=
  (List.range (imageBits ws i 0 5)).flatMap fun k =>
    runWidths (imageBits ws (i + 1 + k / 4) (8 * (k % 4)) 8)

/-- What the LAYOUT test asks of the layout entry at image word `i` (R24, R177). -/
def EntryLayout (ws : List Word) (i : Nat) : Prop :=
  let f := imageBits ws
  1 ≤ f i 0 5 ∧ f i 0 5 ≤ 16 ∧ 4 ≤ f i 8 8 ∧ f i 8 8 ≤ 128 ∧ f i 8 8 % 4 = 0
    ∧ (entryWidths ws i).sum = f i 8 8
    ∧ ∀ before w after, entryWidths ws i = before ++ w :: after → before.sum % 4 + w ≤ 4

/-- What the LAYOUT test asks (R24, R154): of every layout entry, and of every RECORD window, that
LAYOUT names an entry whose TOTAL is the bytes of its data words. -/
def ImageLayout (ws : List Word) : Prop :=
  let f := imageBits ws
  let entry := fun j => 13 + 4 * f 2 8 8 + 5 * j
  (∀ j < f 2 16 8, EntryLayout ws (entry j))
    ∧ ∀ k < f 2 8 8, let i := 13 + 4 * k
        f i 20 2 = 1 → f (i + 1) 10 4 < f 2 16 8
          ∧ f (entry (f (i + 1) 10 4)) 8 8 + 4 * (f (i + 1) 8 1 + f (i + 1) 9 1)
              = 4 * f (i + 2) 0 6

/-- What the POLICY test asks (R154): a GUARDED window has STAMP. -/
def ImagePolicy (ws : List Word) : Prop :=
  ∀ k < imageBits ws 2 8 8, let i := 13 + 4 * k
    imageBits ws i 20 2 = 1 → imageBits ws (i + 1) 6 2 = 1 → imageBits ws (i + 1) 8 1 = 1

/-- What the RING test asks (R154, R175). -/
def ImageRing (ws : List Word) : Prop :=
  ∀ i ∈ [9, 11],
    let code := imageBits ws (i + 1) 0 4
    code ≤ 6 ∧ (code ≠ 0 → imageBits ws i 0 20 + 2 + 4 * 2 ^ (code + 2) ≤ 1048576)

/-! ## The contents of an image that passes (R2, R5, R6, R8, R22, R23, R175 to R177) -/

/-- A port's settings are those of image word `i` (spec/10). -/
def SettingsFrom (ws : List Word) (i : Nat) (x : PortSettings) : Prop :=
  let f := imageBits ws i
  f 0 2 = (match x.order with | .little => 0 | .big => 1)
    ∧ f 2 2 = (match x.unmapped with | .pass => 0 | .readOnly => 1 | .refuse => 2)
    ∧ x.thresh = f 4 3 ∧ (x.loadRight = true ↔ f 8 1 = 1)

/-- A ring is the one of image words `i` and `i + 1`: RBASE and the entries of RCAP, or not configured
(spec/10). -/
def RingFrom (ws : List Word) (i : Nat) (x : Option RingPlace) : Prop :=
  let code := imageBits ws (i + 1) 0 4
  (code = 0 ↔ x = none)
    ∧ ∀ pl, x = some pl → pl.base.toNat = imageBits ws i 0 20 ∧ pl.cap.entries = 2 ^ (code + 2)

/-- The code of a RIGHTS field (spec/10). -/
def rightsCode : Rights → Nat
  | .none => 0
  | .read => 1
  | .readWrite => 2

/-- A window is the window entry at image word `i` (spec/10). -/
def WindowFrom (ws : List Word) (i : Nat) (x : Window) : Prop :=
  let f := fun k => imageBits ws (i + k)
  x.base.toNat = f 0 0 20 ∧ f 1 0 2 = rightsCode x.rights.a ∧ f 1 2 2 = rightsCode x.rights.b
    ∧ match x.kind with
      | .plain span ew =>
        f 0 20 2 = 0 ∧ span = f 3 0 21
          ∧ f 1 16 3 = (match ew with | .one => 1 | .two => 2 | .four => 4)
      | .record spec =>
        f 0 20 2 = 1 ∧ spec.reclen = f 2 0 6 ∧ spec.reccnt = f 2 16 13
          ∧ f 1 4 2 = (match spec.mode with | .full => 0 | .close => 1)
          ∧ f 1 6 2 = (match spec.policy with | .last => 0 | .guarded => 1)
          ∧ (spec.stamp = true ↔ f 1 8 1 = 1) ∧ (spec.check = true ↔ f 1 9 1 = 1)
          ∧ spec.layout = f 1 10 4

/-- A layout is the layout entry at image word `i`: TOTAL, the runs in use, and one word pattern for
each group of four bytes, which cuts the elements of the runs in their order (spec/10, R23). -/
def LayoutFrom (ws : List Word) (i : Nat) (x : Layout) : Prop :=
  let f := imageBits ws
  x.total = f i 8 8 ∧ x.runs.length = f i 0 5
    ∧ (∀ k r, x.runs[k]? = some r →
        List.replicate r.count r.width = runWidths (f (i + 1 + k / 4) (8 * (k % 4)) 8))
    ∧ x.patterns.flatMap Pattern.widths = entryWidths ws i
    ∧ 4 * x.patterns.length = x.total

/-- The map holds what the image says, field by field. -/
def RecordMap.From (m : RecordMap) (ws : List Word) : Prop :=
  let f := imageBits ws
  m.windows.length = f 2 8 8 ∧ m.layouts.length = f 2 16 8
    ∧ SettingsFrom ws 4 m.settings.a ∧ SettingsFrom ws 5 m.settings.b
    ∧ m.sessionLimit.toNat = f 6 0 16 ∧ m.captureLimit.toNat = f 6 16 16
    ∧ m.holdLimit.toNat = f 7 0 16 ∧ m.memoryLimit.toNat = f 7 16 16
    ∧ m.severities.length = 11
    ∧ (∀ k sev, m.severities[k]? = some sev → sev.toNat = f 8 (2 * k) 2)
    ∧ RingFrom ws 9 m.rings.a ∧ RingFrom ws 11 m.rings.b
    ∧ (∀ k x, m.windows[k]? = some x → WindowFrom ws (13 + 4 * k) x)
    ∧ ∀ j x, m.layouts[j]? = some x → LayoutFrom ws (13 + 4 * f 2 8 8 + 5 * j) x

/-! ## Invariants -/

/-- The Notice Unit has a claim, or a burst of its own is carried, or it has nothing to claim
(R123). -/
def State.NoticeSettled (s : State) : Prop :=
  s.noticeClaim.isSome = true ∨ s.burstCarried = true ∨ s.noticeChoice = none

/-- While RESET is asserted the part holds what RESET leaves (R173); the strobes, M_ACK, the straps
latched last, memory and the model's own counts are outside it. -/
def State.HeldInReset (s : State) : Prop :=
  s.resetAsserted = true →
    s = { State.reset with
          pending := s.pending
          resetAsserted := true
          pins := { a := { s.pins.a with out := .quiet }, b := { s.pins.b with out := .quiet } }
          ackHigh := s.ackHigh
          straps := s.straps
          mem := s.mem
          freeCount := s.freeCount }

/-- The port whose access an operation is carried for. -/
def Op.port : Op → Option Port
  | .single p => some p
  | .stampRead p => some p
  | .capture p => some p
  | .commit p _ => some p
  | .entry _ _ | .fullRing _ _ | .lossReport _ _ | .imageRead | .ringHeader _ | .status => none

/-- The operation is the one a port engine claims for this job (R97). -/
def Op.serves (op : Op) (p : Port) (job : Job) : Prop :=
  match op, job with
  | .single q, .single _ => q = p
  | .stampRead q, .stampRead => q = p
  | .capture q, .capture => q = p
  | .commit q _, .commit => q = p
  | _, _ => False

/-- CLAIM and GRANTED agree (R96, R98, R164): an engine's claim is GRANTED exactly when the operation
carried is the one it claimed, and an access without a class claims single operations alone. -/
def State.ClaimsAgree (s : State) : Prop :=
  (∀ p acc t job, s.Carries p acc t job → ∃ g, s.granted = some g ∧ g.op.serves p job)
    ∧ (∀ g p, s.granted = some g → g.op.port = some p →
        ∃ acc t job, s.Carries p acc t job ∧ g.op.serves p job)
    ∧ (∀ p acc job c, (s.engines.get p).estate = .inMemory acc none job c →
        ∃ purpose, job = .single purpose)

/-- R35: at most four sessions and four captures, one of a record at most, in each port's tables. -/
def Engine.TablesHold (e : Engine) : Prop :=
  e.sessions.length ≤ 4 ∧ e.captures.length ≤ 4
    ∧ (e.sessions.map fun x => (x.window, x.record)).Nodup
    ∧ (e.captures.map fun x => (x.window, x.record)).Nodup
    ∧ ∀ ses ∈ e.sessions, ∀ c ∈ e.captures, (ses.window, ses.record) ≠ (c.window, c.record)

/-- R35, R109, R119: every bounded store is within its bound, and the tables and the list hold
nothing twice. -/
def State.StoresHold (s : State) : Prop :=
  (∀ p, (s.engines.get p).TablesHold) ∧ s.queue.length ≤ 8 ∧ s.torn.length ≤ 8 ∧ s.torn.Nodup

/-- R37, R78: a session that is not OPEN, and a capture that is FILLING, belong to the access in
flight, whose operation is claimed for them. -/
def Engine.EntriesSettled (e : Engine) : Prop :=
  (∀ ses ∈ e.sessions, ses.state ≠ .open →
      ∃ acc t job c, e.estate = .inMemory acc (some t) job c ∧ (job = .stampRead ∨ job = .commit)
        ∧ t.recordOf.1 = ses.window ∧ t.recordOf.2.1 = ses.record)
    ∧ (∀ cap ∈ e.captures, cap.live = none →
      ∃ acc t c, e.estate = .inMemory acc (some t) .capture c
        ∧ t.recordOf.1 = cap.window ∧ t.recordOf.2.1 = cap.record)

/-- R35, R76: with no map in force both tables of both ports are empty. -/
def State.BareIsEmpty (s : State) : Prop :=
  s.map = none → ∀ p, (s.engines.get p).sessions = [] ∧ (s.engines.get p).captures = []

/-- R102, R145: while the part is LOADING no port engine has a claim that waits. -/
def State.NoPortWaits (s : State) : Prop :=
  s.isLoading = true → ∀ p, (s.engines.get p).waiting = false

/-- R135: each attention line is what the ring and the threshold in force make it. -/
def State.AttentionRight (s : State) : Prop :=
  ∀ p, s.attn.get p = true ↔
    ∃ m pl sev, s.map = some m ∧ m.rings.get p = some pl ∧ some sev ∈ (s.rings.get p).shadow
      ∧ (m.settings.get p).thresh ≤ sev.toNat

/-- R129 of one ring of capacity C: no more than C notices unconsumed, and the SHADOW slots that are
not empty are exactly those of the unconsumed notices. -/
def Ring.Within (r : Ring) (c : Nat) : Prop :=
  (r.prod - r.cons).toNat ≤ c ∧ r.shadow.length = c
    ∧ ∀ k < c, (∃ sev, r.shadow[k]? = some (some sev)) ↔
        ∃ i < (r.prod - r.cons).toNat, k = (r.cons.toNat + i) % c

/-- R129 of every ring in force. -/
def State.RingsWithin (s : State) : Prop :=
  ∀ p pl, s.ringPlace p = some pl → (s.rings.get p).Within pl.cap.entries

/-- The counts a ring waits for stay good (R124, R131): an entry burst carried has found room, and a
watched write in flight is the ring's WATCH and offers a count that lies between CONS and PROD. -/
def State.CountsHold (s : State) : Prop :=
  (∀ g p n, s.granted = some g → g.op = .entry p n →
      ∀ pl, s.ringPlace p = some pl → (s.rings.get p).hasRoom pl.cap.entries = true)
    ∧ (∀ p acc t ring n c, (s.engines.get p).estate = .inMemory acc t (.single (.watched ring n)) c →
        (s.rings.get ring).watch = some p
          ∧ (n - (s.rings.get ring).cons).toNat
              ≤ ((s.rings.get ring).prod - (s.rings.get ring).cons).toNat)

/-- R121, R131: a notice burst that is carried, and a watched write in flight, is for a ring in
force. -/
def State.RingsNamed (s : State) : Prop :=
  (∀ g q n, s.granted = some g →
      (g.op = .entry q n ∨ g.op = .fullRing q n ∨ g.op = .lossReport q n) →
      (s.ringPlace q).isSome = true)
    ∧ (∀ p acc t ring n c,
        (s.engines.get p).estate = .inMemory acc t (.single (.watched ring n)) c →
          (s.ringPlace ring).isSome = true)

/-- An extent of words lies within the address space. -/
abbrev withinSpace (base : WAddr) (words : Nat) : Prop := base.toNat + words ≤ 1048576

/-- What R2 to R5, R8, R9, R24 and R154 promise of an installed map. -/
def RecordMap.Holds (m : RecordMap) (imageBase : WAddr) : Prop :=
  m.windows.length ≤ 24 ∧ m.layouts.length ≤ 8
    ∧ 0 < m.holdLimit.toNat ∧ 0 < m.memoryLimit.toNat
    ∧ (∀ p, (m.settings.get p).thresh ≤ 4)
    ∧ (∀ w ∈ m.windows, withinSpace w.base w.extent ∧ 0 < w.extent)
    ∧ (∀ w ∈ m.windows, ∀ spec, w.kind = .record spec →
        2 ≤ spec.reclen ∧ spec.reclen ≤ 32 ∧ 1 ≤ spec.reccnt ∧ spec.reccnt ≤ 4096
          ∧ (spec.policy = .guarded → spec.stamp = true)
          ∧ ∃ lay, m.layouts[spec.layout]? = some lay ∧ lay.total = 4 * spec.dataWords
              ∧ lay.patterns.length = spec.dataWords)
    ∧ (∀ p pl, m.rings.get p = some pl → withinSpace pl.base pl.cap.regionWords)
    ∧ (extents imageBase m.windows m.rings).Pairwise fun x y =>
        x.1 + x.2 ≤ y.1 ∨ y.1 + y.2 ≤ x.1

/-- Every map the part holds, in force or a candidate, keeps those promises. -/
def State.MapsHold (s : State) : Prop :=
  (∀ m, s.map = some m → m.Holds s.straps.imageBase)
    ∧ (∀ ld m, s.part = .loading ld → ld.phase = .installing m → m.Holds s.straps.imageBase)

end Sys2Proof.Machine
end

