-- ==== Sys2Proof/Certificates/Slice0/Obligations.lean ====
section
/-! DEFINITION. The statements for the provers. Each says of a numbered rule of spec/, or of the
sections it names, what a command does to State. -/

section Statements

open Sys2Proof Sys2Proof.Machine

/-! ## The queue, RESET and the lines -/

/-- A step runs the command at the front of the queue on the state with the queue's rest. -/
def Obligations.StepRunsTheFrontCommand : Prop :=
  ∀ (c : Instr) (rest : List Instr) (s : State),
    step { s with pending := c :: rest } = exec c { s with pending := rest }

/-- The model's choices for what cannot take place: on an empty queue the block idles (log entry 3), and
a completion or an expiry of the memory limit changes nothing while no operation is carried (log
entry 1). -/
def Obligations.CommandsOutOfPlaceChangeNothing : Prop :=
  (
    ∀ s : State, s.pending = [] → step s = .next s)
  ∧
  (
    ∀ (ans : Answer) (order : EndOrder) (gf : Bool) (entry : EntryOrder) (s : State),
      s.granted = none →
      ∀ c ∈ [Instr.wordAccessCompletes ans, .singleOperationCompletes ans, .consumerCountTaken ans,
          .requestWriteCompletes ans gf entry, .stampReadCompletes ans, .commitStampReadCompletes ans,
          .commitBurstCompletes ans, .captureBurstCompletes ans, .entryBurstCompletes ans,
          .fullRingBurstCompletes ans, .lossReportCompletes ans, .inProgressWriteCompletes ans,
          .imageReadCompletes ans, .ringHeaderWriteCompletes ans, .doneWriteCompletes ans order,
          .failureStatusWriteEnds (.completes ans) order, .failureStatusWriteEnds .expires order,
          .memoryLimitExpires order],
        exec c s = .next s)

/-- The state after RESET, item by item as the chapters that own the state give it; and it meets every
invariant. -/
def Obligations.ResetStateHoldsTheResetValues : Prop :=
  (
    State.reset.part = .bare ∧ State.reset.map = none ∧ State.reset.result = .inProgress
      ∧ State.reset.result.code = 0 ∧ State.reset.seq = 0 ∧ State.reset.tornDisc = 0
      ∧ (∀ p, (State.reset.engines.get p).estate = .idle ∧ (State.reset.engines.get p).sessions = []
          ∧ (State.reset.engines.get p).captures = [])
      ∧ State.reset.granted = none ∧ State.reset.pointer = .a ∧ (∀ r, State.reset.waits r = false)
      ∧ State.reset.loaderClaim = none ∧ State.reset.torn = [] ∧ State.reset.suspect = []
      ∧ State.reset.queue = [] ∧ (∀ p, State.reset.ringPlace p = none)
      ∧ (∀ p, State.reset.attn.get p = false) ∧ State.reset.timebase = 0
      ∧ State.reset.holdLimit = 5000 ∧ State.reset.memoryLimit = 50)
  ∧
  (
    State.reset.mem.wf = true ∧ State.reset.StoresHold
      ∧ (∀ p, (State.reset.engines.get p).EntriesSettled) ∧ State.reset.BareIsEmpty
      ∧ State.reset.HeldInReset ∧ State.reset.ClaimsAgree ∧ State.reset.NoPortWaits
      ∧ State.reset.NoticeSettled ∧ State.reset.AttentionRight ∧ State.reset.RingsWithin
      ∧ State.reset.CountsHold ∧ State.reset.RingsNamed ∧ State.reset.MapsHold)

/-- RESET leaves every item at its value after RESET. That the strobes, M_ACK and the straps latched last
stay as they were is the model's choice (log entry 19). A write access that was being carried may
have changed each enabled lane of its word, in a commit burst all of them or none, and no other byte
of memory changes. -/
def Obligations.ResetEmptiesThePart : Prop :=
  ∀ s : State, s.mem.wf = true →
    ∃ t, exec .reset s = .next t
      ∧ t = { State.reset with
              pending := s.pending
              resetAsserted := true
              pins := { a := { strobe := s.pins.a.strobe, out := .quiet },
                        b := { strobe := s.pins.b.strobe, out := .quiet } }
              ackHigh := s.ackHigh
              straps := s.straps
              mem := t.mem
              freeCount := t.freeCount }
      ∧ (∀ x, t.mem.readByte x = s.mem.readByte x
          ∨ ∃ g w rest, s.granted = some g ∧ g.todo = w :: rest ∧ w.dir = .write
              ∧ x / 4 = w.addr.toNat ∧ enabled w.be (x % 4) = true
              ∧ t.mem.readByte x = lane w.data (x % 4))
      ∧ ∀ g w rest p wr, s.granted = some g → g.todo = w :: rest → g.op = .commit p wr →
          (∀ x, t.mem.readByte x = s.mem.readByte x)
          ∨ ∀ k < 4, enabled w.be k = true →
              t.mem.readByte (4 * w.addr.toNat + k) = lane w.data k

/-- At the release of RESET the straps are latched, the Timebase starts from 0, and each strobe
still asserted is an arrival at Timebase 0, carried raw since the part is BARE. With both asserted, the
two claims are made before the arbiter grants one, or either is made first and granted at once: a free
value (log entry 24). -/
def Obligations.ReleaseOfResetTakesTheStrobes : Prop :=
  ∀ (imgBase : BitVec 4) (imgOrd : ByteOrder) (ckSel : BitVec 2) (s : State),
    s.resetAsserted = true → s.part = .bare →
    let st : Straps := { imgBase := imgBase, imgOrd := imgOrd, ckSel := ckSel }
    let r := fun n : Nat =>
      { s with
        resetAsserted := false, straps := st, timebase := 0, refPeriods := 0, freeCount := n }
    let arrive := fun (p : Port) (x : State) =>
      match (s.pins.get p).strobe with
      | none => x
      | some l =>
        { x with
          engines := x.engines.set p
            { x.engines.get p with
              estate := .inMemory (l.latch 0) none (.single (barePurpose st l)) .waiting } }
    let both := s.pins.a.strobe.isSome = true ∧ s.pins.b.strobe.isSome = true
    (¬ both →
      exec (.resetRelease imgBase imgOrd ckSel) s
        = .next (arrive .b (arrive .a (r s.freeCount))))
    ∧ (both →
      exec (.resetRelease imgBase imgOrd ckSel) s
        = .next
            (match Config.freeOrder s.freeCount with
             | .together => arrive .b (arrive .a (r (s.freeCount + 1)))
             | .first => arrive .b (arrive .a (r (s.freeCount + 1))).arbitrate
             | .second => arrive .a (arrive .b (r (s.freeCount + 1))).arbitrate))

/-- The lines and the clock. While READY or FAULT is asserted, or RESET is, the processor deasserts its
strobe and the port's lines are deasserted; a strobe dropped while neither is asserted takes nothing
(the model's choice, log entry 15). The Timebase advances by one, modulo 2^32, for every 8, 16 or 32
reference clock periods by CKSEL (`refPeriods` is the model's own count, log entry 16), and stands
still while RESET is asserted. An acknowledge with no word access presented is discarded, and only
its being held is noted; the release of M_ACK presents an issued word access that waited for it. -/
def Obligations.LinesAndTimebase : Prop :=
  (
    ∀ (p : Port) (s : State),
      (((s.pins.get p).out ≠ .quiet ∨ s.resetAsserted = true) →
          exec (.strobeRelease p) s
            = .next { s with pins := s.pins.set p { strobe := none, out := .quiet } })
      ∧ ((s.pins.get p).out = .quiet → s.resetAsserted = false → exec (.strobeRelease p) s = .next s))
  ∧
  (
    ∀ s : State,
      (s.resetAsserted = true → exec .timebaseTick s = .next s)
      ∧ (s.resetAsserted = false →
          ∃ t, exec .timebaseTick s = .next t
            ∧ t = { s with timebase := t.timebase, refPeriods := t.refPeriods }
            ∧ t.timebase.toNat = (s.timebase.toNat + 1) % 4294967296
            ∧ t.refPeriods = s.refPeriods
                + (match s.straps.ckSel.toNat with | 0 => 8 | 1 => 16 | _ => 32)))
  ∧
  (
    (∀ (held : Bool) (s : State), (∀ g w rest, ¬ s.OnBus g w rest) →
        exec (.strayAcknowledge held) s = .next { s with ackHigh := s.ackHigh || held })
    ∧ (∀ s : State, s.granted = none →
        exec .acknowledgeReleased s = .next { s with ackHigh := false })
    ∧ ∀ (s : State) (g : Granted), s.granted = some g →
        exec .acknowledgeReleased s
          = .next { s with ackHigh := false, granted := some { g with presented := true } })

/-! ## Arrivals -/

/-- In BARE every access, null or not, is carried raw: one single operation is claimed, with no class.
In LOADING every access, null or not, is held on arrival, without classification. Nothing else
changes. -/
def Obligations.BareCarriesRawAndLoadingHolds : Prop :=
  (
    ∀ (c : Instr) (p : Port) (l : Lines) (s : State), accessOf c = some (p, l) → s.Accepts p →
      s.part = .bare → s.NoticeSettled →
      exec c s
        = .next (s.arrived p l
            (.inMemory (l.latch s.timebase) none (.single (barePurpose s.straps l)) .waiting)))
  ∧
  (
    ∀ (c : Instr) (p : Port) (l : Lines) (s : State) (ld : Load), accessOf c = some (p, l) →
      s.Accepts p → s.part = .loading ld → s.NoticeSettled →
      exec c s = .next (s.arrived p l (.held (l.latch s.timebase))))

/-- A null access in ACTIVE ends READY at once, a null read with zero, whatever its address, and
changes nothing else; in LOADING it is held; taken afresh after a load it is a null access in ACTIVE
and an access of BARE in BARE. -/
def Obligations.NullAccessEndsAtOnce : Prop :=
  (∀ (c : Instr) (p : Port) (l : Lines) (s : State) (m : RecordMap), accessOf c = some (p, l) →
      s.Accepts p → s.part = .active m → l.be = 0 → s.NoticeSettled →
      exec c s = .next (s.endedAtOnce p l (.ready (dataOn l.dir 0))))
  ∧ (∀ (c : Instr) (p : Port) (l : Lines) (s : State) (ld : Load), accessOf c = some (p, l) →
      s.Accepts p → s.part = .loading ld → l.be = 0 → s.NoticeSettled →
      exec c s = .next (s.arrived p l (.held (l.latch s.timebase))))
  ∧ ∀ (p : Port) (acc : Access) (s : State), (s.engines.get p).estate = .held acc → acc.be = 0 →
      age s.timebase acc.arrived < s.holdLimit →
      (∀ m, s.part = .active m →
        s.retake p
          = s.ended p (s.engines.get p).sessions (s.engines.get p).captures
              (.ready (dataOn acc.dir 0)))
      ∧ (s.part = .bare →
        s.retake p
          = s.withPort p
              { s.engines.get p with estate := .inMemory acc none (.single .ordinary) .waiting }
              (s.pins.get p))

/-- An access that the table of refusals refuses ends with FAULT at once, a read with zero; one
REFUSED notice is received, and nothing else changes: no session, capture or byte of memory. -/
def Obligations.RefusedAccessEndsFault : Prop :=
  ∀ (c : Instr) (p : Port) (l : Lines) (s : State) (m : RecordMap) (why : RefusalReason),
    accessOf c = some (p, l) → s.Accepts p → s.part = .active m → l.be ≠ 0 →
    refusalOf m s.straps.imgOrd p l (s.classOf m l) = some why →
    exec c s
      = .next
          ((s.endedAtOnce p l (.fault (dataOn l.dir 0))).raise
            { kind := .refused, port := some p, detail := why.code,
              window := (s.classOf m l).windowField, address := l.addr, value := 0,
              dest := Both.only p }).chooseNotice

/-- An access of a class PLAIN, UNMAPPED, RING or IMAGE that is admitted, and is no request write and no
watched write, claims one single operation with its canonical enables and data. A request write from
a port with LOADRIGHT is forwarded raw as a single write, and the loader notes nothing else. Nothing
else changes. -/
def Obligations.AdmittedAccessClaimsOneOperation : Prop :=
  (
    ∀ (c : Instr) (p : Port) (l : Lines) (s : State) (m : RecordMap), accessOf c = some (p, l) →
      s.Admits m p l → carriedSingly s.straps.imgOrd l (s.classOf m l) (s.takenOf m p l).be →
      s.NoticeSettled →
      exec c s
        = .next (s.arrived p l
            (.inMemory (l.latch s.timebase) (some (s.takenOf m p l)) (.single .ordinary) .waiting)))
  ∧
  (
    ∀ (c : Instr) (p : Port) (l : Lines) (s : State) (m : RecordMap) (n : Nat),
      accessOf c = some (p, l) → s.Accepts p → s.part = .active m → s.NoticeSettled →
      l.addr = s.straps.imageBase → l.dir = .write → (m.settings.get p).loadRight = true →
      requestLength s.straps.imgOrd l.be l.data = some n →
      ∃ t : Taken, t.cls = .image .request ∧ t.be = l.be ∧ t.data = l.data ∧
        exec c s
          = .next (s.arrived p l
              (.inMemory (l.latch s.timebase) (some t) (.single (.request n)) .waiting)))

/-- A write is in request form exactly when all four enables are on and its value in IMGORD order
has a low half from 13 to 149 and the complement of it as its high half; N is the low half. -/
def Obligations.RequestForm : Prop :=
  ∀ (be : Lanes) (raw : Word) (n : Nat),
    (requestLength .little be raw = some n ↔
      be = 15 ∧ n = raw.toNat % 65536 ∧ 13 ≤ n ∧ n ≤ 149 ∧ raw.toNat / 65536 = 65535 - n)
    ∧ ∀ b0 b1 b2 b3 : Byte,
        requestLength .big be (b3 ++ b2 ++ b1 ++ b0) = requestLength .little be (b0 ++ b1 ++ b2 ++ b3)

/-- The class of an address: the first of the table's conditions that holds for it, with the record
index, word offset, record base and word role of a RECORD window. -/
def Obligations.ClassificationFollowsTheTable : Prop :=
  ∀ (m : RecordMap) (ib a : WAddr),
    let inRing := fun q => ∃ pl, m.rings.get q = some pl ∧ pl.base.toNat ≤ a.toNat
      ∧ a.toNat < pl.base.toNat + pl.cap.regionWords
    let inWindow := fun w : Window => w.base.toNat ≤ a.toNat ∧ a.toNat < w.base.toNat + w.extent
    (a = ib → classify m ib a = .image .request)
    ∧ (a = ib + 1 → classify m ib a = .image .status)
    ∧ (a ≠ ib → a ≠ ib + 1 →
        (∀ q pl, m.rings.get q = some pl → inRing q → (q = .b → ¬ inRing .a) →
          classify m ib a
            = .ring q (if a.toNat = pl.base.toNat then .producer
                else if a.toNat = pl.base.toNat + 1 then .consumer else .entry))
        ∧ (¬ inRing .a → ¬ inRing .b →
            (∀ i w spec, m.windows[i]? = some w → w.kind = .record spec → inWindow w →
              (∀ j < i, ∀ v, m.windows[j]? = some v → v.isRecord = true → ¬ inWindow v) →
              let x := a.toNat - w.base.toNat
              let o := x % spec.reclen
              classify m ib a
                = .record i (x / spec.reclen) o
                    (w.base + BitVec.ofNat 20 (x / spec.reclen * spec.reclen))
                    (if spec.stamp = true ∧ o = 0 then .stamp
                      else if spec.check = true ∧ o = spec.reclen - 1 then .check
                      else .data (decide (o = spec.reclen - 1 - (if spec.check then 1 else 0)))))
            ∧ ((∀ w ∈ m.windows, w.isRecord = true → ¬ inWindow w) →
                (∀ i w span ew, m.windows[i]? = some w → w.kind = .plain span ew → inWindow w →
                  (∀ j < i, ∀ v, m.windows[j]? = some v → ¬ inWindow v) →
                  classify m ib a = .plain i)
                ∧ ((∀ w ∈ m.windows, ¬ inWindow w) → classify m ib a = .unmapped))))

/-- The access of a port is given its ORDER: its enables and data are the port's, mirrored together by
the pattern it takes. A LITTLE port's lanes pass unchanged, whatever the class; a BIG port's pattern
is the word pattern: 4 for ring, stamp and check words, EWIDTH for a PLAIN window, the element map for
a data word; IMAGE and UNMAPPED words pass unchanged. -/
def Obligations.ConversionFollowsTheClass : Prop :=
  ∀ (m : RecordMap) (p : Port) (l : Lines) (s : State),
    let t := s.takenOf m p l
    (t.cls = s.classOf m l ∧ t.be = mirrorLanes t.conv l.be ∧ t.data = mirrorWord t.conv l.data)
    ∧ ((m.settings.get p).order = .little → t.be = l.be ∧ t.data = l.data)
    ∧ ((m.settings.get p).order = .big →
        (∀ q role, t.cls = .ring q role → t.conv = .p4)
        ∧ (∀ w r o b, t.cls = .record w r o b .stamp ∨ t.cls = .record w r o b .check → t.conv = .p4)
        ∧ (∀ w r o b cl spec lay pat win, t.cls = .record w r o b (.data cl) →
            m.windows[w]? = some win → win.kind = .record spec → m.layouts[spec.layout]? = some lay →
            lay.patterns[o - (if spec.stamp then 1 else 0)]? = some pat → t.conv = pat)
        ∧ (∀ w win span ew, t.cls = .plain w → m.windows[w]? = some win →
            win.kind = .plain span ew →
            t.conv = (match ew with | .one => .p1111 | .two => .p22 | .four => .p4))
        ∧ ((t.cls = .unmapped ∨ ∃ w, t.cls = .image w) → t.be = l.be ∧ t.data = l.data))

/-- R27, whole: lane k of the element on lanes s to s + w - 1 moves to lane 2s + w - 1 - k, a byte
and its enable together, as the table of the six patterns gives; and twice restores every lane. -/
def Obligations.MirroringMovesEachLane : Prop :=
  (∀ (pat : Pattern) (before after : List Nat) (w k : Nat),
      pat.widths = before ++ w :: after → before.sum ≤ k → k < before.sum + w →
      pat.mirrorLane k = 2 * before.sum + w - 1 - k)
  ∧ (∀ (pat : Pattern) (w : Word) (be : Lanes) (k : Nat), k < 4 →
      lane (mirrorWord pat w) (pat.mirrorLane k) = lane w k
      ∧ enabled (mirrorLanes pat be) (pat.mirrorLane k) = enabled be k)
  ∧ ([0, 1, 2, 3].map Pattern.p4.mirrorLane = [3, 2, 1, 0]
      ∧ [0, 1, 2, 3].map Pattern.p22.mirrorLane = [1, 0, 3, 2]
      ∧ [0, 1, 2, 3].map Pattern.p211.mirrorLane = [1, 0, 2, 3]
      ∧ [0, 1, 2, 3].map Pattern.p121.mirrorLane = [0, 2, 1, 3]
      ∧ [0, 1, 2, 3].map Pattern.p112.mirrorLane = [0, 1, 3, 2]
      ∧ [0, 1, 2, 3].map Pattern.p1111.mirrorLane = [0, 1, 2, 3])
  ∧ ∀ (pat : Pattern) (w : Word) (be : Lanes),
      mirrorWord pat (mirrorWord pat w) = w ∧ mirrorLanes pat (mirrorLanes pat be) = be

/-! ## Sessions -/

/-- Staging places each enabled canonical byte and sets its MASK bit; a byte not enabled keeps its value
and its MASK bit, and every other word of STAGE is as it was. The closing condition: in FULL every
byte of every data word staged, in CLOSE every byte of the closing word. -/
def Obligations.StagingAndTheClosingCondition : Prop :=
  (
    ∀ (ses : Session) (o : Nat) (be : Lanes) (d : Word) (st : Staged), ses.stage[o]? = some st →
      ∃ st', (ses.place o be d).stage[o]? = some st'
        ∧ (∀ k < 4,
            enabled st'.mask k = (enabled be k || enabled st.mask k)
            ∧ lane st'.bytes k = if enabled be k = true then lane d k else lane st.bytes k)
        ∧ (∀ o' ≠ o, (ses.place o be d).stage[o']? = ses.stage[o']?)
        ∧ (ses.place o be d).stage.length = ses.stage.length
        ∧ ses.place o be d = { ses with stage := (ses.place o be d).stage })
  ∧
  (
    ∀ (spec : RecordSpec) (stage : List Staged), stage.length = spec.reclen →
      let first := if spec.stamp then 1 else 0
      let last := spec.reclen - 1 - (if spec.check then 1 else 0)
      first ≤ last → last < spec.reclen →
      (spec.mode = .full →
        (spec.closes stage = true ↔
          ∀ o st, first ≤ o → o ≤ last → stage[o]? = some st → st.mask = 15))
      ∧ (spec.mode = .close →
        (spec.closes stage = true ↔ ∀ st, stage[last]? = some st → st.mask = 15)))

/-- A write to a data word of a record of which the port has a session is staged in it: the session
is OPEN and the write ends READY, or it enters CLOSING and its commit burst is claimed. Nothing else
changes. -/
def Obligations.WriteIsStagedInItsSession : Prop :=
  ∀ (c : Instr) (p : Port) (l : Lines) (s : State) (m : RecordMap) (w r o : Nat) (b : WAddr)
    (cl : Bool) (ses : Session),
    accessOf c = some (p, l) → s.Admits m p l → l.dir = .write →
    s.classOf m l = .record w r o b (.data cl) →
    (s.engines.get p).sessionOf w r = some ses → s.NoticeSettled →
    let t := s.takenOf m p l
    let placed := ses.place o t.be t.data
    let put := fun x : Session =>
      (s.engines.get p).sessions.map fun y => if y.window == w && y.record == r then x else y
    exec c s
      = .next
          (if (m.spec w).closes placed.stage = true then
            s.withPort p
              { estate := .inMemory (l.latch s.timebase) (some t) .commit .waiting,
                sessions := put { placed with state := .closing },
                captures := (s.engines.get p).captures }
              { strobe := some l, out := (s.pins.get p).out }
          else
            s.withPort p
              { estate := .idle, sessions := put { placed with state := .open },
                captures := (s.engines.get p).captures }
              { strobe := some l, out := .ready none })

/-- A write to a data word of a record of which the port has no session opens one: the port's capture of
the record is freed, and the first session of a full table is abandoned. In a window that is not
GUARDED the bytes are staged at once, with OPENED now, and the closing condition decides. In a
GUARDED window the session is OPENING, with nothing staged, and its stamp read is claimed. Where the
write makes its claim and the abandonment the Notice Unit's at an idle Memory Port, both are made
before the arbiter grants, or either is made first and granted at once: a free value (log entry 24). -/
def Obligations.WriteOpensASession : Prop :=
  (
    ∀ (c : Instr) (p : Port) (l : Lines) (s : State) (m : RecordMap) (w r o : Nat) (b : WAddr)
      (cl : Bool),
      accessOf c = some (p, l) → s.Admits m p l → l.dir = .write →
      s.classOf m l = .record w r o b (.data cl) →
      (s.engines.get p).sessionOf w r = none → (m.spec w).policy = .last →
      let t := s.takenOf m p l
      let old := (s.engines.get p).sessions
      let caps := capturesBut w r (s.engines.get p).captures
      let fresh : Session :=
        { window := w, record := r, base := b, state := .open,
          stage := List.replicate (m.spec w).reclen { mask := 0, bytes := 0 }, baseGen := none,
          opened := some s.timebase }
      let placed := fresh.place o t.be t.data
      exec c s
        = .next
            (((if (m.spec w).closes placed.stage = true then
                s.withPort p
                  { estate := .inMemory (l.latch s.timebase) (some t) .commit .waiting,
                    sessions := roomForSession old ++ [{ placed with state := .closing }],
                    captures := caps }
                  { strobe := some l, out := (s.pins.get p).out }
              else
                s.withPort p
                  { estate := .idle, sessions := roomForSession old ++ [placed], captures := caps }
                  { strobe := some l, out := .ready none }).reportEviction p old).chooseBeside p))
  ∧
  (
    ∀ (c : Instr) (p : Port) (l : Lines) (s : State) (m : RecordMap) (w r o : Nat) (b : WAddr)
      (cl : Bool),
      accessOf c = some (p, l) → s.Admits m p l → l.dir = .write →
      s.classOf m l = .record w r o b (.data cl) →
      (s.engines.get p).sessionOf w r = none → (m.spec w).policy = .guarded →
      let old := (s.engines.get p).sessions
      let fresh : Session :=
        { window := w, record := r, base := b, state := .opening,
          stage := List.replicate (m.spec w).reclen { mask := 0, bytes := 0 }, baseGen := none,
          opened := none }
      exec c s
        = .next
            (((s.withPort p
                { estate :=
                    .inMemory (l.latch s.timebase) (some (s.takenOf m p l)) .stampRead .waiting,
                  sessions := roomForSession old ++ [fresh],
                  captures := capturesBut w r (s.engines.get p).captures }
                { strobe := some l, out := (s.pins.get p).out }).reportEviction p old).chooseBeside p))
  ∧
  (
    ∀ (s : State) (p : Port),
      let e := s.engines.get p
      let two := s.granted = none ∧ e.waiting = true ∧ s.noticeClaim = none ∧ s.noticeChoice ≠ none
      let t := { s with freeCount := s.freeCount + 1 }
      let alone := { s with
        freeCount := s.freeCount + 1
        noticeClaim := s.noticeChoice
        engines := s.engines.set p { e with estate := .idle } }.arbitrate
      (¬ two → s.chooseBeside p = s.chooseNotice)
      ∧ (two → s.chooseBeside p
          = match Config.freeOrder s.freeCount with
            | .together => t.chooseNotice
            | .first => t.arbitrate.chooseNotice
            | .second =>
              { alone with
                engines := alone.engines.set p
                  { alone.engines.get p with estate := e.estate } }.chooseNotice))

/-- An own read: with every enabled lane staged it ends READY at once with the staged bytes;
otherwise one single read is claimed, and the bytes staged now are kept for it. The session and
every capture stay as they were. -/
def Obligations.OwnReadIsServedFromItsSession : Prop :=
  ∀ (c : Instr) (p : Port) (l : Lines) (s : State) (m : RecordMap) (w r o : Nat) (b : WAddr)
    (role : WordRole) (ses : Session),
    accessOf c = some (p, l) → s.Admits m p l → l.dir = .read →
    s.classOf m l = .record w r o b role →
    (s.engines.get p).sessionOf w r = some ses → s.NoticeSettled →
    let t := s.takenOf m p l
    let st := ses.stage.getD o { mask := 0, bytes := 0 }
    ((∀ k < 4, enabled t.be k = true → enabled st.mask k = true) →
      exec c s
        = .next (s.endedAtOnce p l (.ready (some (pickLanes l.be (mirrorWord t.conv st.bytes))))))
    ∧ ((∃ k < 4, enabled t.be k = true ∧ enabled st.mask k = false) →
      exec c s
        = .next (s.arrived p l
            (.inMemory (l.latch s.timebase) (some t)
              (.single (.ownRead { mask := st.mask &&& t.be, bytes := st.bytes })) .waiting)))

/-- An OPEN session whose age has reached a session limit that is not 0 is abandoned with reason EXPIRY:
its slot is freed and one ABANDONED notice received. A LIVE capture whose age has reached a capture
limit that is not 0 is freed silently. Before that the commands change nothing (log entry 1). -/
def Obligations.SessionAndCaptureLimits : Prop :=
  (
    ∀ (p : Port) (w r : Nat) (s : State) (ses : Session) (opened : Time),
      (s.engines.get p).sessionOf w r = some ses → ses.opened = some opened →
      ((ses.state = .open → s.sessionLimit ≠ 0 → s.sessionLimit ≤ age s.timebase opened →
        exec (.sessionLimitExpires p w r) s
          = .next
              ((s.withPort p
                  { s.engines.get p with sessions := sessionsBut w r (s.engines.get p).sessions }
                  (s.pins.get p)).raise
                { kind := .abandoned, port := some p, detail := 1,
                  window := BitVec.ofNat 5 ses.window, address := ses.base,
                  value := BitVec.ofNat 32 (stagedBytes ses.stage),
                  dest := Both.only p }).chooseNotice)
      ∧ ((ses.state ≠ .open ∨ s.sessionLimit = 0 ∨ age s.timebase opened < s.sessionLimit) →
        exec (.sessionLimitExpires p w r) s = .next s)))
  ∧
  (
    ∀ (p : Port) (w r : Nat) (s : State) (cap : Capture) (lv : Live),
      (s.engines.get p).captureOf w r = some cap → cap.live = some lv →
      ((s.captureLimit ≠ 0 → s.captureLimit ≤ age s.timebase lv.filled →
        exec (.captureLimitExpires p w r) s
          = .next
              (s.withPort p
                { s.engines.get p with captures := capturesBut w r (s.engines.get p).captures }
                (s.pins.get p)))
      ∧ ((s.captureLimit = 0 ∨ age s.timebase lv.filled < s.captureLimit) →
        exec (.captureLimitExpires p w r) s = .next s)))

/-! ## Captures -/

/-- A read of a word not yet read from a LIVE capture is served from it at once: READY, or FAULT with the
data if the capture is BAD; the word's READMASK bit is set, and a capture then wholly read is freed.
A read of a record with no LIVE capture, or of a word already read from it, takes a new capture: the
old one of the record is freed, the first of a full table is evicted silently, and the capture burst
is claimed. Nothing else changes. -/
def Obligations.ReadIsServedOrTakesACapture : Prop :=
  (
    ∀ (c : Instr) (p : Port) (l : Lines) (s : State) (m : RecordMap) (w r o : Nat) (b : WAddr)
      (role : WordRole) (cap : Capture) (lv : Live),
      accessOf c = some (p, l) → s.Admits m p l → l.dir = .read →
      s.classOf m l = .record w r o b role →
      (s.engines.get p).sessionOf w r = none → (s.engines.get p).captureOf w r = some cap →
      cap.live = some lv → cap.readMask.getLsbD o = false → s.NoticeSettled →
      let t := s.takenOf m p l
      let data := some (pickLanes l.be (mirrorWord t.conv (lv.words.getD o 0)))
      let cap' := { cap with readMask := cap.readMask ||| (1#32 <<< o) }
      let caps := (s.engines.get p).captures
      exec c s
        = .next
            (s.withPort p
              { estate := .idle, sessions := (s.engines.get p).sessions,
                captures :=
                  if (List.range lv.words.length).all (fun k => cap'.readMask.getLsbD k) = true
                  then capturesBut w r caps
                  else caps.map fun x => if x.window == w && x.record == r then cap' else x }
              { strobe := some l, out := if lv.bad = true then .fault data else .ready data }))
  ∧
  (
    ∀ (c : Instr) (p : Port) (l : Lines) (s : State) (m : RecordMap) (w r o : Nat) (b : WAddr)
      (role : WordRole),
      accessOf c = some (p, l) → s.Admits m p l → l.dir = .read →
      s.classOf m l = .record w r o b role → (s.engines.get p).sessionOf w r = none →
      (∀ cap, (s.engines.get p).captureOf w r = some cap →
        cap.live = none ∨ cap.readMask.getLsbD o = true) →
      s.NoticeSettled →
      exec c s
        = .next
            (s.withPort p
              { estate := .inMemory (l.latch s.timebase) (some (s.takenOf m p l)) .capture .waiting,
                sessions := (s.engines.get p).sessions,
                captures :=
                  roomForCapture w r (s.engines.get p).captures
                    ++ [{ window := w, record := r, base := b, live := none, readMask := 0 }] }
              { strobe := some l, out := (s.pins.get p).out }))

/-! ## The arbiter and the word accesses -/

/-- The arbiter grants nothing while an operation is carried or nothing waits, and GRANT then changes
nothing (the model's choice, log entry 1); the loader's claim comes first and leaves POINTER
unchanged; otherwise POINTER goes past the claimant the rotation picks. -/
def Obligations.GrantFollowsTheRotation : Prop :=
  ∀ s : State,
    ((s.granted.isSome = true
        ∨ (s.loaderClaim = none ∧ ∀ r, s.waits r = false)) → s.NoticeSettled →
      exec .grant s = .next s)
    ∧ (∀ claim, s.granted = none → s.loaderClaim = some claim →
        ∃ t, exec .grant s = .next t ∧ t.pointer = s.pointer ∧ t.loaderClaim = none
          ∧ t.engines = s.engines ∧ t.rings = s.rings ∧ t.mem = s.mem)
    ∧ ∀ r, s.PicksNext r →
        ∃ t, exec .grant s = .next t
          ∧ t.pointer = (match r with | .a => .b | .b => .notice | .notice => .a)
          ∧ (∀ p, t.engines.get p ≠ s.engines.get p → r = rotorOf p)
          ∧ (∀ p, r = rotorOf p → (t.engines.get p).waiting = false)
          ∧ t.mem = s.mem

/-- The grant of a port's single read or write, stamp read or capture burst: CLAIM becomes GRANTED and
the word accesses of its kind are issued, with the canonical enables, or all four lanes; an access of
BARE is one raw word access. -/
def Obligations.GrantStartsAPortOperation : Prop :=
  (
    ∀ (s : State) (p : Port) (acc : Access) (t : Taken) (job : Job),
      s.PicksNext (rotorOf p) → (s.engines.get p).estate = .inMemory acc (some t) job .waiting →
      s.NoticeSettled →
      let go := fun (op : Op) (todo : List WordAccess) =>
        { s with
          pointer := (rotorOf p).next
          engines := s.engines.set p
            { s.engines.get p with estate := .inMemory acc (some t) job .granted }
          granted := some (s.issued op todo 0 []) }
      (∀ purpose, job = .single purpose → (∀ st, purpose ≠ .ownRead st) →
        exec .grant s
          = .next (go (.single p) [{ addr := acc.addr, dir := acc.dir, be := t.be, data := t.data }]))
      ∧ (∀ st, job = .single (.ownRead st) →
        exec .grant s
          = .next (go (.single p)
              [{ addr := acc.addr, dir := acc.dir, be := t.be &&& ~~~st.mask, data := t.data }]))
      ∧ (∀ w r o b, job = .stampRead → IsRecord t.cls w r o b →
        exec .grant s = .next (go (.stampRead p) [{ addr := b, dir := .read, be := 15, data := 0 }]))
      ∧ (∀ w r o b, job = .capture → IsRecord t.cls w r o b →
        exec .grant s
          = .next (go (.capture p)
              ((List.range (s.spec w).reclen).map fun k =>
                { addr := b + BitVec.ofNat 20 k, dir := .read, be := 15, data := 0 }))))
  ∧
  (
    ∀ (s : State) (p : Port) (acc : Access) (purpose : Purpose),
      s.PicksNext (rotorOf p) →
      (s.engines.get p).estate = .inMemory acc none (.single purpose) .waiting →
      (∀ st, purpose ≠ .ownRead st) → s.NoticeSettled →
      exec .grant s
        = .next
            { s with
              pointer := (rotorOf p).next
              engines := s.engines.set p
                { s.engines.get p with estate := .inMemory acc none (.single purpose) .granted }
              granted := some (s.issued (.single p)
                [{ addr := acc.addr, dir := acc.dir, be := acc.be, data := acc.data }] 0 []) })

/-- The grant of a commit burst: its reading phase, the stamp read first if the window has STAMP and
in CLOSE mode the merge reads; or at once its writes, if there is nothing to read. -/
def Obligations.GrantStartsACommitBurst : Prop :=
  ∀ (s : State) (p : Port) (acc : Access) (t : Taken) (w r o : Nat) (b : WAddr) (ses : Session),
    s.PicksNext (rotorOf p) → (s.engines.get p).estate = .inMemory acc (some t) .commit .waiting →
    IsRecord t.cls w r o b → (s.engines.get p).sessionOf w r = some ses → s.NoticeSettled →
    let reads := commitReads (s.spec w) ses
    exec .grant s
      = .next
          { s with
            pointer := (rotorOf p).next
            engines := s.engines.set p
              { s.engines.get p with estate := .inMemory acc (some t) .commit .granted }
            granted := some
              (if reads = [] then
                s.issued (.commit p true) (commitWrites (s.spec w) ses p []) 0 []
              else s.issued (.commit p false) reads 0 []) }

/-- The word accesses of a commit burst: the reads are the stamp read and, in CLOSE mode, one merge read
of each data word not fully staged, in ascending offset; the writes are every word of the record, all
four lanes, data words ascending, then the check word, the stamp word last. A data byte is the staged
one where its MASK bit is set, else the byte merged from memory for that word; and the check word
makes the record pass the check test of a capture. -/
def Obligations.CommitBurstWords : Prop :=
  (
    ∀ (spec : RecordSpec) (ses : Session) (p : Port) (got : List Word),
      ses.stage.length = spec.reclen → 1 ≤ spec.dataWords →
      spec.reclen = spec.dataWords + (if spec.stamp then 1 else 0) + (if spec.check then 1 else 0) →
      let first := if spec.stamp then 1 else 0
      let at_ := fun k => ses.base + BitVec.ofNat 20 k
      let data := formData ((ses.stage.drop first).take spec.dataWords)
        (if spec.stamp then got.drop 1 else got)
      commitReads spec ses
          = (if spec.stamp then [{ addr := ses.base, dir := .read, be := 15, data := 0 }] else [])
            ++ (if spec.mode = .close then
                  (((List.range spec.dataWords).filter fun k =>
                      decide (∃ st, ses.stage[first + k]? = some st ∧ st.mask ≠ 15)).map fun k =>
                    { addr := at_ (first + k), dir := .read, be := 15, data := 0 })
                else [])
      ∧ (commitWrites spec ses p got).map (fun x => (x.addr, x.dir, x.be))
          = ((List.range spec.dataWords).map fun k => (at_ (first + k), Direction.write, (15 : Lanes)))
            ++ (if spec.check then [(at_ (spec.reclen - 1), Direction.write, (15 : Lanes))] else [])
            ++ (if spec.stamp then [(ses.base, Direction.write, (15 : Lanes))] else [])
      ∧ (commitWrites spec ses p got).map (fun x => x.data)
          = data ++ newCheck spec (newStamp spec p got) data ++ newStamp spec p got)
  ∧
  (
    (∀ (stage : List Staged) (merged : List Word) (k : Nat) (st : Staged), stage[k]? = some st →
        ∃ d, (formData stage merged)[k]? = some d
          ∧ ∀ j < 4,
              (enabled st.mask j = true → lane d j = lane st.bytes j)
              ∧ (enabled st.mask j = false →
                  ∀ v, merged[((stage.take k).filter fun x => x.mask != 15).length]? = some v →
                    lane d j = lane v j))
    ∧ ∀ (spec : RecordSpec) (ses : Session) (p : Port) (got : List Word), spec.check = true →
        let data := formData (spec.dataStage ses.stage) (mergedWords spec got)
        let words := newStamp spec p got ++ data
        newCheck spec (newStamp spec p got) data = [crc32 words]
        ∧ checkHolds (words ++ [crc32 words]) = true)

/-- R66, whole: the stamp word, the last word a commit burst of a window with STAMP writes, holds the
successor of the found generation, the writer, and zero in all other bits. -/
def Obligations.StampWordOfACommit : Prop :=
  ∀ (spec : RecordSpec) (ses : Session) (p : Port) (got : List Word) (found : Word),
    spec.stamp = true → got.head? = some found →
    let g := found.toNat % 65536
    (commitWrites spec ses p got).getLast?
      = some
          { addr := ses.base, dir := .write, be := 15,
            data := BitVec.ofNat 32
              ((if g = 65535 then 1 else g + 1) + (match p with | .a => 0 | .b => 65536)) }

/-- The grant of a notice burst: with room, the four words of the notice into the slot at PROD and
the producer word with PROD + 1; without room, a full-ring burst, with 1 added to PLOST; a loss
report writes the producer word alone. The high half is LOST + PLOST, saturated; the carried amount
is PLOST. The four words of a notice: kind, port, severity, detail and window; address; value; time;
every other bit zero. -/
def Obligations.GrantStartsANoticeBurst : Prop :=
  (
  ∀ (s : State) (q : Port) (pl : RingPlace), s.PicksNext .notice → s.ringPlace q = some pl →
    let r := s.rings.get q
    let word := fun (lost plost prod : Count) =>
      ({ addr := pl.base, dir := .write, be := 15,
         data := (BitVec.ofNat 16 (min 65535 (lost.toNat + plost.toNat))) ++ prod } : WordAccess)
    let plus := BitVec.ofNat 16 (min 65535 (r.plost.toNat + 1))
    (∀ e es, s.noticeClaim = some (.head q) → s.queue = e :: es →
      ((r.prod - r.cons).toNat < pl.cap.entries →
        exec .grant s
          = .next
              { s with
                pointer := .a
                noticeClaim := none
                granted := some (s.issued (.entry q r.plost)
                  ((List.range 4).map (fun k =>
                      ({ addr := pl.base
                            + BitVec.ofNat 20 (2 + 4 * (r.prod.toNat % pl.cap.entries) + k),
                         dir := .write, be := 15, data := e.notice.words.getD k 0 } : WordAccess))
                    ++ [word r.lost r.plost (r.prod + 1)]) 0 []) })
      ∧ (pl.cap.entries ≤ (r.prod - r.cons).toNat →
        exec .grant s
          = .next
              { s with
                pointer := .a
                noticeClaim := none
                rings := s.rings.set q { r with plost := plus }
                granted := some (s.issued (.fullRing q plus) [word r.lost plus r.prod] 0 []) }))
    ∧ (s.noticeClaim = some (.lossReport q) →
        exec .grant s
          = .next
              { s with
                pointer := .a
                noticeClaim := none
                granted := some
                  (s.issued (.lossReport q r.plost) [word r.lost r.plost r.prod] 0 []) }))
  ∧
  (
    ∀ n : Notice,
      let code := match n.kind with
        | .loadDone => 1 | .loadFailed => 2 | .refused => 3 | .abandoned => 4 | .stale => 5
        | .checkMismatch => 6 | .torn => 7 | .suspect => 8 | .memTimeout => 9 | .holdTimeout => 10
        | .badConsumer => 11
      let port := match n.port with | some .a => 0 | some .b => 1 | none => 2
      n.words =
        [BitVec.ofNat 32 (code + 16 * port + 64 * n.severity.toNat + 256 * n.detail.toNat
            + 65536 * n.window.toNat),
          BitVec.ofNat 32 n.address.toNat, n.value, n.time])

/-- The grant of a loader operation: the status word, the image, or the two header words of a ring
of the candidate; POINTER is unchanged. -/
def Obligations.GrantStartsALoaderOperation : Prop :=
  ∀ s : State, s.granted = none → s.NoticeSettled →
    let go := fun (op : Op) (todo : List WordAccess) =>
      { s with loaderClaim := none, granted := some (s.issued op todo 0 []) }
    (∀ word, s.loaderClaim = some (.status word) →
      exec .grant s
        = .next (go .status
            [{ addr := s.straps.imageBase + 1, dir := .write, be := 15, data := word }]))
    ∧ (∀ ld, s.loaderClaim = some .imageRead → s.part = .loading ld →
      exec .grant s
        = .next (go .imageRead
            ((List.range ld.reqN).map fun k =>
              { addr := s.straps.imageBase + BitVec.ofNat 20 k, dir := .read, be := 15,
                data := 0 })))
    ∧ ∀ q ld cand pl, s.loaderClaim = some (.ringHeader q) → s.part = .loading ld →
        ld.phase = .installing cand → cand.rings.get q = some pl →
        exec .grant s
          = .next (go (.ringHeader q)
              [{ addr := pl.base, dir := .write, be := 15, data := 0 },
               { addr := pl.base + 1, dir := .write, be := 15, data := 0 }])

/-- A word access other than the last of its operation completes: the next is issued, timed from now, and
presented if M_ACK is low; the word of a read is kept. After a merge read of a commit burst the next
merge read is issued, or after the last the writing phase begins with the words formed. -/
def Obligations.WordAccessesFollowOneAnother : Prop :=
  (
    ∀ (ans : Answer) (s : State) (g : Granted) (w w' : WordAccess) (rest : List WordAccess),
      s.OnBus g w (w' :: rest) → (∀ p, g.op ≠ .commit p false) →
      exec (.wordAccessCompletes ans) s
        = .next
            { s.answer w ans with
              granted := some
                { op := g.op, todo := w' :: rest, done := g.done + 1,
                  got := g.got ++ (if w.dir = .read then [s.answerData w ans] else []),
                  timer := s.timebase, limit := s.memoryLimit, presented := !ans.held } })
  ∧
  (
    ∀ (ans : Answer) (s : State) (g : Granted) (w : WordAccess) (rest : List WordAccess) (p : Port)
      (acc : Access) (t : Taken) (a r o : Nat) (b : WAddr) (ses : Session),
      s.OnBus g w rest → g.op = .commit p false → s.Carries p acc (some t) .commit →
      IsRecord t.cls a r o b → (s.engines.get p).sessionOf a r = some ses →
      ((s.spec a).stamp = false ∨ g.done ≠ 0) → w.dir = .read →
      let got := g.got ++ [s.answerData w ans]
      exec (.wordAccessCompletes ans) s
        = .next
            { s.answer w ans with
              granted := some
                { op := .commit p (rest == []),
                  todo := if rest = [] then commitWrites (s.spec a) ses p got else rest,
                  done := g.done + 1, got := got, timer := s.timebase, limit := s.memoryLimit,
                  presented := !ans.held } })

/-- What the answer of the memory does: a read changes no byte, and delivers the bytes of the lanes asked
for; a write changes each enabled lane of its word and no other byte; a late acknowledge taken as the
answer to a write leaves each enabled lane old or written (the model's choice, log entry 9). An
expired write leaves each enabled lane of its word old or written, and no other byte changed; in a
commit burst, and for the producer word of a notice burst, all of them old or all written; for a
watched write the consumer count old or written. An expired read changes no byte. -/
def Obligations.MemoryBusChangesEnabledLanesAlone : Prop :=
  (
    ∀ (s : State) (w : WordAccess) (ans : Answer), s.mem.wf = true →
      (∀ x, (s.answer w ans).mem.readByte x = s.mem.readByte x
          ∨ (w.dir = .write ∧ x / 4 = w.addr.toNat ∧ enabled w.be (x % 4) = true
              ∧ (s.answer w ans).mem.readByte x = lane w.data (x % 4)))
      ∧ (w.dir = .write → ans.late = none → ∀ k < 4, enabled w.be k = true →
          (s.answer w ans).mem.readByte (4 * w.addr.toNat + k) = lane w.data k)
      ∧ (ans.late = none → ∀ k < 4,
          lane (s.answerData w ans) k
            = if enabled w.be k = true then s.mem.readByte (4 * w.addr.toNat + k) else 0)
      ∧ s.answer w ans
          = { s with
              ackHigh := ans.held
              mem := (s.answer w ans).mem
              freeCount := (s.answer w ans).freeCount })
  ∧
  (
    ∀ (s : State) (w : WordAccess), s.mem.wf = true →
      (∀ x, (s.expired w).mem.readByte x = s.mem.readByte x
          ∨ (w.dir = .write ∧ x / 4 = w.addr.toNat ∧ enabled w.be (x % 4) = true
              ∧ (s.expired w).mem.readByte x = lane w.data (x % 4)))
      ∧ (∀ g, s.granted = some g →
          ((∃ p wr, g.op = .commit p wr)
            ∨ (g.todo = [w] ∧ ∃ q n, g.op = .entry q n ∨ g.op = .fullRing q n
                ∨ g.op = .lossReport q n)) →
          (∀ x, (s.expired w).mem.readByte x = s.mem.readByte x)
          ∨ ∀ k < 4, enabled w.be k = true →
              (s.expired w).mem.readByte (4 * w.addr.toNat + k) = lane w.data k)
      ∧ (∀ g p acc t q n, s.granted = some g → g.op = .single p →
          s.Carries p acc t (.single (.watched q n)) →
          (∀ k < 2, (s.expired w).mem.readByte (4 * w.addr.toNat + k)
              = s.mem.readByte (4 * w.addr.toNat + k))
          ∨ ∀ k < 2, w.dir = .write ∧ (enabled w.be k = true →
              (s.expired w).mem.readByte (4 * w.addr.toNat + k) = lane w.data k))
      ∧ (w.dir = .read → s.expired w = { s with granted := none })
      ∧ s.expired w
          = { s with
              granted := none
              mem := (s.expired w).mem
              freeCount := (s.expired w).freeCount })

/-! ## Completions for a port -/

/-- A single read or write carried for an access completes: the access ends READY, a read with its
word on the lanes enabled, an own read with its staged bytes merged; nothing else changes. -/
def Obligations.SingleOperationEndsReady : Prop :=
  ∀ (ans : Answer) (s : State) (g : Granted) (w : WordAccess) (p : Port) (acc : Access),
    s.LastOnBus g w → g.op = .single p →
    let e := s.engines.get p
    (s.Carries p acc none (.single .ordinary) →
      exec (.singleOperationCompletes ans) s
        = .next ((s.answered w ans).ended p e.sessions e.captures
            (.ready (dataOn acc.dir (pickLanes acc.be (s.answerData w ans))))))
    ∧ (∀ t, s.Carries p acc (some t) (.single .ordinary) →
      exec (.singleOperationCompletes ans) s
        = .next ((s.answered w ans).ended p e.sessions e.captures
            (.ready (dataOn acc.dir (portLines acc t (s.answerData w ans))))))
    ∧ ∀ t st, s.Carries p acc (some t) (.single (.ownRead st)) →
      ∃ word : Word,
        (∀ k < 4,
          lane word k
            = if enabled st.mask k = true then lane st.bytes k else lane (s.answerData w ans) k)
        ∧ exec (.singleOperationCompletes ans) s
            = .next ((s.answered w ans).ended p e.sessions e.captures
                (.ready (dataOn acc.dir (portLines acc t word))))

/-- A watched write is tested when it is classified. Valid: it sets WATCH and claims its single
write. Invalid: it ends FAULT, is carried nowhere, and one BAD_CONSUMER notice is received for the
ring, whose counts, SHADOW, WATCH and attention line are unchanged. -/
def Obligations.WatchedWriteIsTested : Prop :=
  ∀ (c : Instr) (p : Port) (l : Lines) (s : State) (m : RecordMap) (q : Port),
    accessOf c = some (p, l) → s.Admits m p l → l.dir = .write →
    s.classOf m l = .ring q .consumer →
    let t := s.takenOf m p l
    let r := s.rings.get q
    let n : Count := t.data.extractLsb' 0 16
    let valid := (n - r.cons).toNat ≤ (r.prod - r.cons).toNat ∧ r.watch = none
    enabled t.be 0 = true → enabled t.be 1 = true →
    (valid → s.NoticeSettled →
      exec c s
        = .next
            { s.arrived p l
                (.inMemory (l.latch s.timebase) (some t) (.single (.watched q n)) .waiting) with
              rings := s.rings.set q { r with watch := some p } })
    ∧ (¬ valid →
      exec c s
        = .next
            ((s.endedAtOnce p l (.fault none)).raise
              { kind := .badConsumer, port := some p, detail := 0, window := 31, address := l.addr,
                value := BitVec.ofNat 32 n.toNat, dest := Both.only q }).chooseNotice)

/-- A valid watched write completes: the SHADOW slots it passes are emptied and no other, CONS takes
the count, WATCH is emptied, the ring's attention line is evaluated afresh, and the write ends
READY. -/
def Obligations.ConsumerCountIsTaken : Prop :=
  ∀ (ans : Answer) (s : State) (g : Granted) (w : WordAccess) (p q : Port) (acc : Access)
    (t : Option Taken) (n : Count) (m : RecordMap) (pl : RingPlace),
    s.LastOnBus g w → g.op = .single p → s.Carries p acc t (.single (.watched q n)) →
    s.map = some m → m.rings.get q = some pl →
    let r := s.rings.get q
    ∃ sh on,
      exec (.consumerCountTaken ans) s
        = .next
            { (s.answered w ans).ended p (s.engines.get p).sessions (s.engines.get p).captures
                (.ready (dataOn acc.dir (pickLanes acc.be 0))) with
              rings := s.rings.set q { r with shadow := sh, cons := n, watch := none }
              attn := s.attn.set q on }
      ∧ sh.length = r.shadow.length
      ∧ (∀ k < r.shadow.length,
          sh[k]? = if ∃ i < (n - r.cons).toNat, k = (r.cons + BitVec.ofNat 16 i).toNat
              % pl.cap.entries then some none else r.shadow[k]?)
      ∧ (on = true ↔ ∃ sev, some sev ∈ sh ∧ (m.settings.get q).thresh ≤ sev.toNat)

/-- The stamp read of an OPENING session completes: BASEGEN takes the low half of the stamp word,
OPENED the Timebase, and the write is staged; the session is OPEN and the write READY, or CLOSING
with its commit burst claimed. In LOADING a closing write is then held, and the session is abandoned:
one ABANDONED notice of detail LOAD with its staged-byte count, as for any other session that the
port still has, the OPEN ones first in their opening order. -/
def Obligations.StampReadOpensTheSession : Prop :=
  ∀ (ans : Answer) (s : State) (g : Granted) (w : WordAccess) (p : Port) (acc : Access) (t : Taken)
    (a r o : Nat) (b : WAddr) (ses : Session),
    s.LastOnBus g w → g.op = .stampRead p → s.Carries p acc (some t) .stampRead →
    IsRecord t.cls a r o b → (s.engines.get p).sessionOf a r = some ses → acc.dir = .write →
    let opened : Session :=
      { ses with baseGen := some ((s.answerData w ans).extractLsb' 0 16), opened := some s.timebase }
    let placed := opened.place o t.be t.data
    let closes := (s.spec ses.window).closes placed.stage
    let put := fun x : Session =>
      (s.engines.get p).sessions.map fun y => if y.window == a && y.record == r then x else y
    let sess := put { placed with state := if closes = true then .closing else .open }
    let rep := fun x : Session =>
      ({ kind := .abandoned, port := some p, detail := 3, window := BitVec.ofNat 5 x.window,
         address := x.base, value := BitVec.ofNat 32 (stagedBytes x.stage),
         dest := Both.only p } : Report)
    (s.isLoading = false → s.NoticeSettled →
      exec (.stampReadCompletes ans) s
        = .next
            (if closes = true then
              (s.answered w ans).withPort p
                { estate := .inMemory acc (some t) .commit .waiting,
                  sessions := put { placed with state := .closing },
                  captures := (s.engines.get p).captures }
                (s.pins.get p)
            else
              (s.answered w ans).ended p (put { placed with state := .open })
                (s.engines.get p).captures (.ready none)))
    ∧ (s.isLoading = true →
      exec (.stampReadCompletes ans) s
        = .next
            (((sess.filter fun x => decide (x.state = .open))
                ++ sess.filter fun x => decide (x.state ≠ .open)).foldl
              (fun (y : State) x => y.raise (rep x))
              ((s.answered w ans).withPort p
                { estate := if closes = true then .held acc else .idle, sessions := [],
                  captures := [] }
                { s.pins.get p with
                  out := if closes = true then (s.pins.get p).out else .ready none })).chooseNotice)

/-- The stamp read of a commit burst completes. In a GUARDED window whose found generation is not BASEGEN
the commit is stale: the session is discarded, the write ends FAULT, one STALE notice is received and
no word is written, and a claim that waits may be granted before the Notice Unit makes its choice (log
entry 24); otherwise the burst goes on to its merge reads or its writes. The last write
completes: the record leaves the Torn Record List if it is there and no flag changes, the session's
slot is freed, and the closing write ends READY. -/
def Obligations.CommitIsStaleOrGoesOnAndEnds : Prop :=
  (
    ∀ (ans : Answer) (s : State) (g : Granted) (w : WordAccess) (rest : List WordAccess) (p : Port)
      (acc : Access) (t : Taken) (a r o : Nat) (b : WAddr) (ses : Session),
      s.OnBus g w rest → g.op = .commit p false → s.Carries p acc (some t) .commit →
      IsRecord t.cls a r o b → (s.engines.get p).sessionOf a r = some ses →
      (s.spec a).stamp = true → g.done = 0 → w.dir = .read → acc.dir = .write →
      let found : Count := (s.answerData w ans).extractLsb' 0 16
      let got := g.got ++ [s.answerData w ans]
      (∀ base, (s.spec a).policy = .guarded → ses.baseGen = some base → found ≠ base →
        exec (.commitStampReadCompletes ans) s
          = .next
              ((((s.answered w ans).ended p (sessionsBut a r (s.engines.get p).sessions)
                  (s.engines.get p).captures (.fault none)).raise
                { kind := .stale, port := some p, detail := 0, window := BitVec.ofNat 5 a,
                  address := ses.base, value := found ++ base, dest := Both.only p }).chooseAfter
                ans.grantFirst))
      ∧ (((s.spec a).policy = .last ∨ ses.baseGen = some found) →
        exec (.commitStampReadCompletes ans) s
          = .next
              { s.answer w ans with
                granted := some
                  { op := .commit p (rest == []),
                    todo := if rest = [] then commitWrites (s.spec a) ses p got else rest,
                    done := 1, got := got, timer := s.timebase, limit := s.memoryLimit,
                    presented := !ans.held } }))
  ∧
  (
    ∀ (ans : Answer) (s : State) (g : Granted) (w : WordAccess) (p : Port) (acc : Access) (t : Taken)
      (a r o : Nat) (b : WAddr) (ses : Session),
      s.LastOnBus g w → g.op = .commit p true → s.Carries p acc (some t) .commit →
      IsRecord t.cls a r o b → (s.engines.get p).sessionOf a r = some ses → acc.dir = .write →
      exec (.commitBurstCompletes ans) s
        = .next
            { (s.answered w ans).ended p (sessionsBut a r (s.engines.get p).sessions)
                (s.engines.get p).captures (.ready none) with
              torn := s.torn.filter fun x => !(x.base == ses.base && x.window == a) })

/-- The last read of a capture burst completes: the capture is BAD if its record is listed torn or
its window SUSPECT, or, in a window with CHECK, if its check word is not the CRC-32 of the words
before it, which one CHECK_MISMATCH notice reports; and the word asked for is served from it. While
the part is LOADING the capture is then freed, and a session the port still has is abandoned. A claim
that waits may be granted before the Notice Unit makes its choice (log entry 24). -/
def Obligations.CaptureIsVerifiedAndServed : Prop :=
  ∀ (ans : Answer) (s : State) (g : Granted) (w : WordAccess) (p : Port) (acc : Access) (t : Taken)
    (a r o : Nat) (b : WAddr) (cap : Capture),
    s.LastOnBus g w → g.op = .capture p → s.Carries p acc (some t) .capture →
    IsRecord t.cls a r o b → (s.engines.get p).captureOf a r = some cap → w.dir = .read →
    acc.dir = .read →
    let words := g.got ++ [s.answerData w ans]
    let isTorn := ({ base := cap.base, window := a } : TornEntry) ∈ s.torn
      ∨ s.suspect[a]? = some true
    let differs := (s.spec a).check = true ∧ words.getLast? ≠ some (crc32 words.dropLast)
    let cap' := fun bad : Bool =>
      { cap with
        live := some { bad := bad, words := words, filled := s.timebase }
        readMask := cap.readMask ||| (1#32 <<< o) }
    let caps := (s.engines.get p).captures
    let after := fun bad : Bool =>
      (s.answered w ans).ended p (s.engines.get p).sessions
        (if (List.range words.length).all (fun k => (cap' bad).readMask.getLsbD k) = true
          then capturesBut a r caps
          else caps.map fun x => if x.window == a && x.record == r then cap' bad else x)
        (let data := some (portLines acc t (words.getD o 0))
         if bad = true then .fault data else .ready data)
    let mismatch : Report :=
      { kind := .checkMismatch, port := some p, detail := 0, window := BitVec.ofNat 5 a,
        address := cap.base, value := crc32 words.dropLast, dest := Both.only p }
    let freed := fun bad : Bool =>
      (s.answered w ans).ended p [] []
        (let data := some (portLines acc t (words.getD o 0))
         if bad = true then .fault data else .ready data)
    let sess := (s.engines.get p).sessions
    let rep := fun x : Session =>
      ({ kind := .abandoned, port := some p, detail := 3, window := BitVec.ofNat 5 x.window,
         address := x.base, value := BitVec.ofNat 32 (stagedBytes x.stage),
         dest := Both.only p } : Report)
    let gone := fun u : State =>
      (((sess.filter fun x => decide (x.state = .open))
          ++ sess.filter fun x => decide (x.state ≠ .open)).foldl
        (fun (y : State) x => y.raise (rep x)) u).chooseAfter ans.grantFirst
    (s.isLoading = false →
      (isTorn →
        exec (.captureBurstCompletes ans) s = .next ((after true).chooseAfter ans.grantFirst))
      ∧ (¬ isTorn → differs →
        exec (.captureBurstCompletes ans) s
          = .next (((after true).raise mismatch).chooseAfter ans.grantFirst))
      ∧ (¬ isTorn → ¬ differs →
        exec (.captureBurstCompletes ans) s = .next ((after false).chooseAfter ans.grantFirst)))
    ∧ (s.isLoading = true →
      (isTorn → exec (.captureBurstCompletes ans) s = .next (gone (freed true)))
      ∧ (¬ isTorn → differs →
        exec (.captureBurstCompletes ans) s = .next (gone ((freed true).raise mismatch)))
      ∧ (¬ isTorn → ¬ differs →
        exec (.captureBurstCompletes ans) s = .next (gone (freed false))))

/-! ## Notices -/

/-- R118, whole, with what R120 and R136 add: a notice received in ACTIVE is resolved against the
rings configured, discarded with an empty set, else queued, or lost and counted if the queue holds
8; in BARE it is discarded; in LOADING from ACTIVE it is queued deferred and unresolved, or counted
in the deferred lost counts. -/
def Obligations.NoticeIsReceived : Prop :=
  ∀ (s : State) (rep : Report),
    (s.map = none → s.raise rep = s)
    ∧ ∀ m, s.map = some m →
      let n : Notice :=
        { kind := rep.kind, port := rep.port,
          severity := m.severities.getD (rep.kind.code - 1) 0, detail := rep.detail,
          window := rep.window, address := rep.address, value := rep.value, time := s.timebase }
      let left := fun q => rep.dest.get q = true ∧ (m.rings.get q).isSome = true
      let entry := fun (d : Both Bool) (deferred : Bool) =>
        ({ notice := n, dest := d, handled := { a := false, b := false },
           deferred := deferred } : QueueEntry)
      let add := fun (x : Count) => BitVec.ofNat 16 (min 65535 (x.toNat + 1))
      (s.isLoading = false →
        ((∀ q, ¬ left q) → s.raise rep = s)
        ∧ ((∃ q, left q) → s.queue.length < 8 →
            ∃ d : Both Bool, (∀ q, d.get q = true ↔ left q)
              ∧ s.raise rep = { s with queue := s.queue ++ [entry d false] })
        ∧ ((∃ q, left q) → 8 ≤ s.queue.length →
            ∃ rings : Both Ring,
              (∀ q, (left q → rings.get q
                      = { s.rings.get q with plost := add (s.rings.get q).plost, lrep := true })
                  ∧ (¬ left q → rings.get q = s.rings.get q))
              ∧ s.raise rep = { s with rings := rings }))
      ∧ (s.isLoading = true →
        (s.queue.length < 8 → s.raise rep = { s with queue := s.queue ++ [entry rep.dest true] })
        ∧ (8 ≤ s.queue.length →
            ∃ lost : Both Count,
              (∀ q, lost.get q
                  = if rep.dest.get q = true then add (s.deferredLost.get q)
                    else s.deferredLost.get q)
              ∧ s.raise rep = { s with deferredLost := lost }))

/-- The Notice Unit's choice: with a claim, or a burst carried, it makes none; else a loss report
due for ring A, one due for ring B, the first ring not handled of a head entry that is not deferred,
in that order; else no claim. It changes its claim alone. -/
def Obligations.NoticeUnitMakesItsChoice : Prop :=
  ∀ s : State,
    let due := fun q => (s.ringPlace q).isSome = true ∧ (s.rings.get q).lrep = true
    let free := s.noticeClaim = none
      ∧ ∀ g, s.granted = some g → ∀ q n, g.op ≠ .entry q n ∧ g.op ≠ .fullRing q n
          ∧ g.op ≠ .lossReport q n
    let head := fun q => ∃ e es, s.queue = e :: es ∧ e.deferred = false
      ∧ e.dest.get q = true ∧ e.handled.get q = false
    (¬ free → s.chooseNotice = s)
    ∧ (free →
      (due .a → s.chooseNotice = { s with noticeClaim := some (.lossReport .a) })
      ∧ (¬ due .a → due .b → s.chooseNotice = { s with noticeClaim := some (.lossReport .b) })
      ∧ (¬ due .a → ¬ due .b →
          (head .a → s.chooseNotice = { s with noticeClaim := some (.head .a) })
          ∧ (¬ head .a → head .b → s.chooseNotice = { s with noticeClaim := some (.head .b) })
          ∧ (¬ head .a → ¬ head .b → s.chooseNotice = { s with noticeClaim := none })))

/-- R125, whole: an entry burst completes. PROD advances, LOST takes the high half written, PLOST loses
the carried amount, LREP is cleared, the SHADOW slot takes the notice's severity, the ring is handled
for the head entry, which leaves with its last ring, and the attention line is evaluated afresh; then
the next choice. A full-ring burst or a loss report completes: LOST takes the high half written,
PLOST loses the carried amount, LREP is cleared; PROD, CONS, SHADOW and the attention line are
unchanged; a full-ring burst handles its ring for the head entry, a loss report none. -/
def Obligations.NoticeBurstsEnd : Prop :=
  (
    ∀ (ans : Answer) (s : State) (g : Granted) (w : WordAccess) (q : Port) (carried : Count)
      (m : RecordMap) (pl : RingPlace) (e : QueueEntry) (es : List QueueEntry),
      s.LastOnBus g w → g.op = .entry q carried → s.map = some m → m.rings.get q = some pl →
      s.queue = e :: es →
      let r := s.rings.get q
      let sh := r.shadow.set (r.prod.toNat % pl.cap.entries) (some e.notice.severity)
      ∃ on,
        exec (.entryBurstCompletes ans) s
          = .next
              { s.answered w ans with
                rings := s.rings.set q
                  { r with
                    prod := r.prod + 1
                    lost := w.data.extractLsb' 16 16
                    plost := r.plost - carried
                    lrep := false
                    shadow := sh }
                queue := if e.dest.get q.other = true ∧ e.handled.get q.other = false
                  then { e with handled := e.handled.set q true } :: es else es
                attn := s.attn.set q on }.chooseNotice
        ∧ (on = true ↔ ∃ sev, some sev ∈ sh ∧ (m.settings.get q).thresh ≤ sev.toNat))
  ∧
  (
    ∀ (ans : Answer) (s : State) (g : Granted) (w : WordAccess) (q : Port) (carried : Count),
      s.LastOnBus g w →
      let r := s.rings.get q
      let reported : Ring :=
        { r with lost := w.data.extractLsb' 16 16, plost := r.plost - carried, lrep := false }
      (∀ e es, g.op = .fullRing q carried → s.queue = e :: es →
        exec (.fullRingBurstCompletes ans) s
          = .next
              { s.answered w ans with
                rings := s.rings.set q reported
                queue := if e.dest.get q.other = true ∧ e.handled.get q.other = false
                  then { e with handled := e.handled.set q true } :: es else es }.chooseNotice)
      ∧ (g.op = .lossReport q carried →
        exec (.lossReportCompletes ans) s
          = .next { s.answered w ans with rings := s.rings.set q reported }.chooseNotice))

/-! ## Loads -/

/-- A permitted request write completes with no load in progress: the access ends READY and a load
begins. FROM, REQPORT, REQN and PHASE STARTING are set, RESULT is 0 and the IN_PROGRESS write is
claimed. At each port a waiting claim becomes a held access, WATCH emptied by a withdrawn watched
write; every session is abandoned with one ABANDONED notice of detail LOAD and its staged-byte count,
the OPEN ones first in their opening order; and every capture is freed; save what belongs to an
operation granted first (log entry 10). The notices are received after LOADING is entered (log entry
12), those of the two engines and the Notice Unit's own in any order that keeps each block's (log entry
11); nothing else changes. An expiry, or an access that arrives, taken first leaves what its own
command leaves, and its notices are received with these. A write that completes while the part is LOADING ends READY and changes nothing else: the load in progress,
its REQN and its REQPORT stand. -/
def Obligations.RequestWriteBeginsALoad : Prop :=
  (
    ∀ (ans : Answer) (gf : Bool) (entry : EntryOrder) (s : State) (g : Granted) (w : WordAccess)
      (p : Port) (acc : Access) (t : Option Taken) (n : Nat),
      s.LastOnBus g w → g.op = .single p → s.Carries p acc t (.single (.request n)) →
      s.isLoading = false → acc.dir = .write →
      let v := (s.answered w ans).ended p (s.engines.get p).sessions (s.engines.get p).captures
        (.ready none)
      let x := (if ans.grantFirst = true then v.arbitrate else v).takeEvents entry.events
      let u := if gf = true then x.1.arbitrate else x.1
      let opens := fun q => (u.engines.get q).sessions.filter fun y => decide (y.state = .open)
      let others := fun q => (u.engines.get q).sessions.filter fun y => decide (y.state ≠ .open)
      let rep := fun q (y : Session) =>
        ({ kind := .abandoned, port := some q, detail := 3, window := BitVec.ofNat 5 y.window,
           address := y.base, value := BitVec.ofNat 32 (stagedBytes y.stage),
           dest := Both.only q } : Report)
      let reports := fun q =>
        x.2.engines.get q
          ++ (match (u.engines.get q).estate with
              | .inMemory _ _ _ .granted => opens q
              | _ => opens q ++ others q).map (rep q)
      let e := fun q : Port =>
        match (u.engines.get q).estate with
        | .inMemory a tk j .granted =>
          ({ estate := .inMemory a tk j .granted, sessions := others q,
             captures := (u.engines.get q).captures.filter fun y => y.live.isNone } : Engine)
        | .inMemory a _ _ .waiting => { estate := .held a, sessions := [], captures := [] }
        | st => { estate := st, sessions := [], captures := [] }
      let withdrawn := fun r => ∃ q a tk k,
        (u.engines.get q).estate = .inMemory a tk (.single (.watched r k)) .waiting
      ∃ rings : Both Ring,
        (∀ r, (withdrawn r → rings.get r = { u.rings.get r with watch := none })
            ∧ (¬ withdrawn r → rings.get r = u.rings.get r))
        ∧ exec (.requestWriteCompletes ans gf entry) s
            = .next
                ((interleave entry.turns (reports .a) (reports .b) x.2.noticeUnit).foldl State.raise
                  { u with
                    part := .loading { from? := s.map, phase := .starting, reqPort := p, reqN := n }
                    result := .inProgress
                    loaderClaim := some (.status
                      (inOrder s.straps.imgOrd ((0 : BitVec 8) ++ s.seq ++ (0 : BitVec 16))))
                    engines := { a := e .a, b := e .b }
                    rings := rings }).chooseNotice)
  ∧
  (
    ∀ (ans : Answer) (gf : Bool) (entry : EntryOrder) (s : State) (g : Granted) (w : WordAccess)
      (p : Port) (acc : Access) (t : Option Taken) (n : Nat),
      s.LastOnBus g w → g.op = .single p → s.Carries p acc t (.single (.request n)) →
      s.isLoading = true → acc.dir = .write →
      exec (.requestWriteCompletes ans gf entry) s
        = .next ((s.answered w ans).ended p (s.engines.get p).sessions (s.engines.get p).captures
            (.ready none)))
  ∧
  (
    ∀ (s : State) (x : EntryEvent) (xs : List EntryEvent),
      let q := match x with | .hold q => q | .session q _ _ => q | .access q _ _ _ _ => q
      let expiry := fun c : Instr => match x with
        | .hold q => c = .holdLimitExpires q
        | .session q a r => c = .sessionLimitExpires q a r
        | .access _ _ _ _ _ => False
      let access := fun c : Instr => match x with
        | .access q addr dir be data =>
          accessOf c = some (q, { addr := addr, dir := dir, be := be, data := data })
        | _ => False
      s.takeEvents [] = (s, { engines := { a := [], b := [] }, noticeUnit := [] })
      ∧ ∃ (t : State) (reps : List Report),
        s.takeEvents (x :: xs)
            = ((t.takeEvents xs).1,
                { engines := (t.takeEvents xs).2.engines.set q
                    ((reps.filter fun r => decide (r.kind ≠ .badConsumer))
                      ++ (t.takeEvents xs).2.engines.get q)
                  noticeUnit := (reps.filter fun r => decide (r.kind = .badConsumer))
                    ++ (t.takeEvents xs).2.noticeUnit })
          ∧ (∀ c, expiry c →
              (reps = [] ∧ t = s ∧ exec c s = .next s)
              ∨ ∃ rep, reps = [rep] ∧ exec c s = .next (t.raise rep).chooseNotice)
          ∧ ∀ c, access c → exec c s = .next ((reps.foldl State.raise t).chooseBeside q))
  ∧ ∀ (turns : List Source) (xs ys zs : List Report),
      let all := interleave turns xs ys zs
      all.Perm (xs ++ ys ++ zs) ∧ xs.Sublist all ∧ ys.Sublist all ∧ zs.Sublist all

/-- The IN_PROGRESS write completes: PHASE DRAINING. Once the Notice Unit is drained: PHASE READING,
with the image read claimed. The model's choices: READING is entered by DRAINED alone, a command of
its own, not by the completion itself (log entry 23); and DRAINED changes nothing before (log entry
1). -/
def Obligations.LoaderDrainsThenReads : Prop :=
  (∀ (ans : Answer) (s : State) (g : Granted) (w : WordAccess) (ld : Load), s.LastOnBus g w →
      g.op = .status → s.part = .loading ld → ld.phase = .starting →
      exec (.inProgressWriteCompletes ans) s
        = .next { s.answered w ans with part := .loading { ld with phase := .draining } })
  ∧ ∀ (s : State) (ld : Load), s.part = .loading ld → ld.phase = .draining →
      let isDrained := (∀ e ∈ s.queue, e.deferred = true)
        ∧ (∀ q, (s.ringPlace q).isSome = true → (s.rings.get q).lrep = false)
        ∧ s.noticeClaim = none
        ∧ ∀ g, s.granted = some g → ∀ q n, g.op ≠ .entry q n ∧ g.op ≠ .fullRing q n
            ∧ g.op ≠ .lossReport q n
      (isDrained →
        exec .drained s
          = .next
              { s with
                part := .loading { ld with phase := .reading }
                loaderClaim := some .imageRead })
      ∧ (¬ isDrained → exec .drained s = .next s)

/-- The image read completes and the image is validated: a failed test sets RESULT and claims the
failure's status word write; a map that passes is the candidate, and the first installing write is
claimed, the header of ring A, of ring B, or the DONE status word. A ring header write completes: the
header of ring B is claimed after that of ring A if it is configured, else the DONE status word, with
W, SEQ + 1 and the torn count. -/
def Obligations.LoaderValidatesAndInstallsInOrder : Prop :=
  (
    ∀ (ans : Answer) (s : State) (g : Granted) (w : WordAccess) (ld : Load), s.LastOnBus g w →
      g.op = .imageRead → s.part = .loading ld → ld.phase = .reading → w.dir = .read →
      let raw := g.got ++ [s.answerData w ans]
      let word := fun (res windows seq torn : BitVec 8) =>
        some (LoaderClaim.status (inOrder s.straps.imgOrd (torn ++ seq ++ windows ++ res)))
      (∀ res, validate s.straps ld.reqN raw = .fails res →
        exec (.imageReadCompletes ans) s
          = .next
              { s.answered w ans with
                part := .loading { ld with phase := .reporting }
                result := res
                loaderClaim := word res.code 0 s.seq 0 })
      ∧ ∀ cand, validate s.straps ld.reqN raw = .passes cand →
        let v := { s.answered w ans with part := .loading { ld with phase := .installing cand } }
        exec (.imageReadCompletes ans) s
          = .next
              (if cand.rings.a.isSome = true then { v with loaderClaim := some (.ringHeader .a) }
               else if cand.rings.b.isSome = true then { v with loaderClaim := some (.ringHeader .b) }
               else
                { v with
                  result := .done
                  loaderClaim := word 1 (BitVec.ofNat 8 cand.windows.length) (s.seq + 1)
                    (BitVec.ofNat 8 s.torn.length) }))
  ∧
  (
    ∀ (ans : Answer) (s : State) (g : Granted) (w : WordAccess) (q : Port) (ld : Load)
      (cand : RecordMap), s.LastOnBus g w → g.op = .ringHeader q → s.part = .loading ld →
      ld.phase = .installing cand →
      exec (.ringHeaderWriteCompletes ans) s
        = .next
            (if q = .a ∧ cand.rings.b.isSome = true then
              { s.answered w ans with loaderClaim := some (.ringHeader .b) }
            else
              { s.answered w ans with
                result := .done
                loaderClaim := some (.status (inOrder s.straps.imgOrd
                  (BitVec.ofNat 8 s.torn.length ++ (s.seq + 1)
                    ++ BitVec.ofNat 8 cand.windows.length ++ (1 : BitVec 8)))) }))

/-- The tests of an image in their order: FORMAT, LENGTH, CHECK, RANGE, LAYOUT, POLICY, RING and last
OVERLAP: the first that fails gives the result. A map that passes keeps what the spec promises of an
installed map, and every field of it is the image's: the settings of both ports, the limits, the
severities, both rings, each window entry and each layout entry with its runs and word patterns. -/
def Obligations.ValidatedMapHolds : Prop :=
  (∀ (st : Straps) (n : Nat) (raw : List Word) (m : RecordMap),
      validate st n raw = .passes m →
      m.Holds st.imageBase ∧ m.From (raw.map (inOrder st.imgOrd)))
  ∧ ∀ (st : Straps) (n : Nat) (raw : List Word),
      let ws := raw.map (inOrder st.imgOrd)
      let length := n = 13 + 4 * imageBits ws 2 8 8 + 5 * imageBits ws 2 16 8
      let check := crc32 (raw.drop 4) = ws.getD 3 0
      (¬ ImageFormat ws → validate st n raw = .fails .format)
      ∧ (ImageFormat ws → ¬ length → validate st n raw = .fails .length)
      ∧ (ImageFormat ws → length → ¬ check → validate st n raw = .fails .check)
      ∧ (ImageFormat ws → length → check →
          (¬ ImageRange ws → validate st n raw = .fails .range)
          ∧ (ImageRange ws → ¬ ImageLayout ws → validate st n raw = .fails .layout)
          ∧ (ImageRange ws → ImageLayout ws →
              (¬ ImagePolicy ws → validate st n raw = .fails .policy)
              ∧ (ImagePolicy ws → ¬ ImageRing ws → validate st n raw = .fails .ring)
              ∧ (ImagePolicy ws → ImageRing ws →
                  validate st n raw = .fails .overlap ∨ ∃ m, validate st n raw = .passes m)))

/-- R155, whole: the OVERLAP test compares the IMAGE words, the extent of each window and the region
of each configured ring, and fails exactly if two of them share a word. Every window has a word, as
the RANGE test before it has found (R153). -/
def Obligations.OverlapTestComparesEveryPair : Prop :=
  ∀ (ib : WAddr) (ws : List Word) (settings : Both PortSettings) (windows : List Window)
    (layouts : List Layout) (rings : Both (Option RingPlace)), (∀ w ∈ windows, 0 < w.extent) →
    let region := fun r : Option RingPlace =>
      match r with
      | none => []
      | some pl => [(pl.base.toNat, 2 + 4 * pl.cap.entries)]
    let all := (ib.toNat, 2)
      :: ((windows.map fun w =>
            (w.base.toNat,
              match w.kind with
              | .plain span _ => span
              | .record spec => spec.reclen * spec.reccnt))
          ++ region rings.a ++ region rings.b)
    (validateOverlap ib ws settings windows layouts rings = .fails .overlap
        ↔ ∃ (i j : Nat) (x y : Nat × Nat) (k : Nat), i < j ∧ all[i]? = some x ∧ all[j]? = some y
            ∧ (x.1 ≤ k ∧ k < x.1 + x.2) ∧ (y.1 ≤ k ∧ k < y.1 + y.2))
    ∧ (validateOverlap ib ws settings windows layouts rings ≠ .fails .overlap →
        ∃ m, validateOverlap ib ws settings windows layouts rings = .passes m
          ∧ m.windows = windows ∧ m.layouts = layouts ∧ m.settings = settings ∧ m.rings = rings)

/-- The DONE write completes: the candidate is the map in force, the list and the flags are emptied, the
rings start from 0, SEQ advances, the attention lines are deasserted; the deferred entries are
released and LOAD_DONE is received with the torn count. The last status word write of REPORTING ends,
by completion, or by expiry if it carried MEMORY: the part returns to FROM with its map, and the map,
rings, list, flags, SEQ and TORNDISC stand; the deferred entries are released and LOAD_FAILED is
received. The held accesses are taken afresh before or after the notice (log entry 11), one past the
hold limit of FROM ending with FAULT (log entry 25), and the Notice Unit makes its choice after the
loader's notice and after what follows it (log entry 22). Where the arbiter grants a claim that waits
among these, and as a write of REPORTING ends, the command's operand says (log entry 24). The expiry of
the write of MEMORY is a MEMORY_LIMIT_EXPIRES as well (log entry 20). -/
def Obligations.LoadEndsInActiveOrInFrom : Prop :=
  (
    ∀ (ans : Answer) (order : EndOrder) (s : State) (g : Granted) (w : WordAccess) (ld : Load)
      (cand : RecordMap), s.LastOnBus g w → g.op = .status → s.part = .loading ld →
      ld.phase = .installing cand →
      let ring := fun q =>
        match cand.rings.get q with
        | none => Ring.unconfigured
        | some pl =>
          ({ prod := 0, cons := 0, lost := 0, plost := 0, lrep := false,
             shadow := List.replicate pl.cap.entries none, watch := none } : Ring)
      let v : State :=
        { s.answered w ans with
          part := .active cand
          tornDisc := BitVec.ofNat 8 s.torn.length
          torn := []
          suspect := List.replicate cand.windows.length false
          rings := { a := ring .a, b := ring .b }
          seq := s.seq + 1
          result := .done
          attn := { a := false, b := false } }.releaseDeferred
      let rep : Report :=
        { kind := .loadDone, port := some ld.reqPort,
          detail := BitVec.ofNat 8 cand.windows.length, window := 31,
          address := s.straps.imageBase, value := BitVec.ofNat 32 (s.torn.length % 256),
          dest := { a := true, b := true } }
      let limit := match ld.from? with | none => 5000 | some m => m.holdLimit.toNat
      let one := fun x : State => x.retakeAfter limit order.port
      let two := fun x : State => x.retakeAfter limit order.port.other
      let g1 := fun x : State => if order.grantAfterFirst = true then x.arbitrate else x
      let g2 := fun x : State => if order.grantAfterSecond = true then x.arbitrate else x
      exec (.doneWriteCompletes ans order) s
        = .next
            (match order.notice with
              | .first => (two (g2 (one (g1 (v.raise rep).chooseNotice)).chooseNotice)).chooseNotice
              | .between => (two (g2 ((g1 (one v)).raise rep).chooseNotice)).chooseNotice
              | .last => ((g2 (two (g1 (one v)))).raise rep).chooseNotice))
  ∧
  (
    ∀ (how : WriteEnd) (order : EndOrder) (s : State) (g : Granted) (w : WordAccess) (ld : Load),
      s.part = .loading ld → ld.phase = .reporting → g.op = .status →
      let v := fun base : State =>
        { base with
          part := match ld.from? with | none => .bare | some m => .active m }.releaseDeferred
      let rep : Report :=
        { kind := .loadFailed, port := some ld.reqPort, detail := s.result.code, window := 31,
          address := s.straps.imageBase, value := 0, dest := { a := true, b := true } }
      let limit := match ld.from? with | none => 5000 | some m => m.holdLimit.toNat
      let one := fun x : State => x.retakeAfter limit order.port
      let two := fun x : State => x.retakeAfter limit order.port.other
      let g0 := fun x : State => if order.grantAtEnd = true then x.arbitrate else x
      let g1 := fun x : State => if order.grantAfterFirst = true then x.arbitrate else x
      let g2 := fun x : State => if order.grantAfterSecond = true then x.arbitrate else x
      let after := fun x : State =>
        match order.notice with
          | .first => (two (g2 (one (g1 (x.raise rep).chooseNotice)).chooseNotice)).chooseNotice
          | .between => (two (g2 ((g1 (one x)).raise rep).chooseNotice)).chooseNotice
          | .last => ((g2 (two (g1 (one x)))).raise rep).chooseNotice
      (∀ ans, how = .completes ans → s.LastOnBus g w → s.result ≠ .done →
        exec (.failureStatusWriteEnds how order) s = .next (after (v (g0 (s.answered w ans)))))
      ∧ (how = .expires → s.Overdue g w [] → s.result = .memory →
        exec (.failureStatusWriteEnds how order) s = .next (after (v (g0 (s.expired w))))
          ∧ exec (.memoryLimitExpires order) s = .next (after (v (g0 (s.expired w))))))

/-- The release at a load's end: the deferred entries are resolved against the rings in force, those with no ring
left removed, the others kept in their order; each port's deferred lost count is added to PLOST of
its ring with LREP set, if it is not 0 and the ring is configured; and both counts are then 0. With no
map in force the deferred entries are removed and no ring changes. -/
def Obligations.DeferredNoticesAreReleased : Prop :=
  ∀ s : State,
    (∀ q, s.releaseDeferred.deferredLost.get q = 0)
    ∧ (s.map = none → s.releaseDeferred.queue = (s.queue.filter fun e => !e.deferred)
        ∧ s.releaseDeferred.rings = s.rings)
    ∧ (∀ m, s.map = some m →
        let kept := fun (e : QueueEntry) q => e.dest.get q = true ∧ (m.rings.get q).isSome = true
        let resolved := fun e : QueueEntry =>
          { e with
            dest := { a := e.dest.a && m.rings.a.isSome, b := e.dest.b && m.rings.b.isSome },
            deferred := false }
        s.releaseDeferred.queue
          = ((s.queue.filter fun e => decide (e.deferred = true → kept e .a ∨ kept e .b)).map
              fun e => if e.deferred = true then resolved e else e)
        ∧ ∀ q, s.releaseDeferred.rings.get q
            = if (m.rings.get q).isSome = true ∧ s.deferredLost.get q ≠ 0 then
                { s.rings.get q with
                  plost := BitVec.ofNat 16
                    (min 65535 ((s.rings.get q).plost.toNat + (s.deferredLost.get q).toNat)),
                  lrep := true }
              else s.rings.get q)
    ∧ s.releaseDeferred
        = { s with
            queue := s.releaseDeferred.queue
            rings := s.releaseDeferred.rings
            deferredLost := s.releaseDeferred.deferredLost }

/-- A held access is taken afresh at the end of a load: past the hold limit it ends FAULT with one
HOLD_TIMEOUT of detail 0; else in BARE it is carried raw, and in ACTIVE it is classified, refused or
carried. Whatever its class, a RECORD access, a watched write and a request write too, it leaves what
an access arriving now leaves before the Notice Unit's choice, but for its arrival time, which it keeps.
One whose age has reached the
hold limit of FROM ends FAULT all the same (the model's reading of R170, log entry 25). -/
def Obligations.HeldAccessIsTakenAfresh : Prop :=
  ∀ (p : Port) (acc : Access) (s : State), (s.engines.get p).estate = .held acc →
    let e := s.engines.get p
    let l : Lines := { addr := acc.addr, dir := acc.dir, be := acc.be, data := acc.data }
    let late := s.holdLimit ≤ age s.timebase acc.arrived
    (late →
      s.retake p
        = (s.ended p e.sessions e.captures (.fault (dataOn acc.dir 0))).raise
            { kind := .holdTimeout, port := some p, detail := 0, window := 31, address := acc.addr,
              value := 0, dest := Both.only p })
    ∧ (¬ late → s.part = .bare →
      s.retake p
        = s.withPort p
            { e with estate := .inMemory acc none (.single (barePurpose s.straps l)) .waiting }
            (s.pins.get p))
    ∧ (∀ m, ¬ late → s.part = .active m → acc.be ≠ 0 →
      (∀ why, refusalOf m s.straps.imgOrd p l (s.classOf m l) = some why →
        s.retake p
          = (s.ended p e.sessions e.captures (.fault (dataOn acc.dir 0))).raise
              { kind := .refused, port := some p, detail := why.code,
                window := (s.classOf m l).windowField, address := acc.addr, value := 0,
                dest := Both.only p })
      ∧ (refusalOf m s.straps.imgOrd p l (s.classOf m l) = none →
        carriedSingly s.straps.imgOrd l (s.classOf m l) (s.takenOf m p l).be →
        s.retake p
          = s.withPort p
              { e with
                estate := .inMemory acc (some (s.takenOf m p l)) (.single .ordinary) .waiting }
              (s.pins.get p)))
    ∧ (∀ c, ¬ late → s.isLoading = false → s.resetAsserted = false → accessOf c = some (p, l) →
      ∃ t : State,
        exec c (s.withPort p { e with estate := .idle }
            { strobe := none, out := (s.pins.get p).out }) = .next (t.chooseBeside p)
        ∧ s.retake p
            = t.withPort p
                { t.engines.get p with estate := (t.engines.get p).estate.since acc.arrived }
                { strobe := (s.pins.get p).strobe, out := (t.pins.get p).out })
    ∧ ∀ limit : Nat,
        (age s.timebase acc.arrived < limit → s.retakeAfter limit p = s.retake p)
        ∧ (limit ≤ age s.timebase acc.arrived →
          s.retakeAfter limit p
            = (s.ended p e.sessions e.captures (.fault (dataOn acc.dir 0))).raise
                { kind := .holdTimeout, port := some p, detail := 0, window := 31,
                  address := acc.addr, value := 0, dest := Both.only p })

/-! ## Expiries -/

/-- A single operation reaches the memory limit: its access ends FAULT, WATCH of a watched write is
emptied and its count not taken, and one MEM_TIMEOUT is received, none for an access of BARE. A claim
that waits may be granted before the Notice Unit makes its choice (log entry 24). -/
def Obligations.ExpiredSingleOperation : Prop :=
  ∀ (order : EndOrder) (s : State) (g : Granted) (w : WordAccess) (rest : List WordAccess) (p : Port)
    (acc : Access) (purpose : Purpose), s.Overdue g w rest → g.op = .single p →
    let v := fun x : State =>
      x.ended p (s.engines.get p).sessions (s.engines.get p).captures (.fault (dataOn acc.dir 0))
    let base :=
      match purpose with
      | .watched q _ =>
        { s.expired w with rings := s.rings.set q { s.rings.get q with watch := none } }
      | _ => s.expired w
    (s.Carries p acc none (.single purpose) →
      exec (.memoryLimitExpires order) s = .next ((v base).chooseAfter order.grantAtEnd))
    ∧ ∀ t, s.Carries p acc (some t) (.single purpose) →
      exec (.memoryLimitExpires order) s
        = .next
            (((v base).raise
              { kind := .memTimeout, port := some p,
                detail := match acc.dir with | .read => 1 | .write => 2,
                window := t.cls.windowField, address := acc.addr, value := 0,
                dest := Both.only p }).chooseAfter order.grantAtEnd)

/-- A stamp read, a capture burst or the reading phase of a commit reaches the memory limit: the
session or capture is freed, the access ends FAULT and one MEM_TIMEOUT is received; the value of a
stamp read's is free (log entry 8). No list changes. A claim that waits may be granted before the
Notice Unit makes its choice (log entry 24). -/
def Obligations.ExpiredReadOfARecord : Prop :=
  ∀ (order : EndOrder) (s : State) (g : Granted) (w : WordAccess) (rest : List WordAccess) (p : Port)
    (acc : Access) (t : Taken) (a r o : Nat) (b : WAddr), s.Overdue g w rest →
    IsRecord t.cls a r o b → w.dir = .read →
    let e := s.engines.get p
    let v := { s with granted := none }
    let rep := fun (detail : BitVec 8) (value : Word) =>
      ({ kind := .memTimeout, port := some p, detail := detail, window := BitVec.ofNat 5 a,
         address := b, value := value, dest := Both.only p } : Report)
    (g.op = .stampRead p → s.Carries p acc (some t) .stampRead →
      ∃ value,
        exec (.memoryLimitExpires order) s
          = .next
              ({ (v.ended p (sessionsBut a r e.sessions) e.captures
                  (.fault (dataOn acc.dir 0))).raise (rep 3 value) with
                freeCount := s.freeCount + 1 }.chooseAfter order.grantAtEnd))
    ∧ (g.op = .capture p → s.Carries p acc (some t) .capture →
      exec (.memoryLimitExpires order) s
        = .next
            (((v.ended p e.sessions (capturesBut a r e.captures) (.fault (dataOn acc.dir 0))).raise
              (rep 4 (BitVec.ofNat 32 g.done))).chooseAfter order.grantAtEnd))
    ∧ (g.op = .commit p false → s.Carries p acc (some t) .commit →
      exec (.memoryLimitExpires order) s
        = .next
            (((v.ended p (sessionsBut a r e.sessions) e.captures (.fault (dataOn acc.dir 0))).raise
              (rep 5 ((w.addr - b).setWidth 32))).chooseAfter order.grantAtEnd))

/-- A commit burst reaches the memory limit in its writing phase: the record is torn. It is entered
in the list if it is not there and the list has room; with 8 others there its window becomes
SUSPECT, and a flag that was clear raises SUSPECT first. The session is discarded, the write ends
FAULT and one TORN notice is received, with the writes completed and the found generation. A claim
that waits may be granted before the Notice Unit makes its choice (log entry 24). -/
def Obligations.ExpiredWriteTearsTheRecord : Prop :=
  ∀ (order : EndOrder) (s : State) (g : Granted) (w : WordAccess) (rest : List WordAccess) (p : Port)
    (acc : Access) (t : Taken) (a r o : Nat) (b : WAddr), s.Overdue g w rest →
    IsRecord t.cls a r o b → g.op = .commit p true → s.Carries p acc (some t) .commit →
    let x : TornEntry := { base := b, window := a }
    let v := (s.expired w).ended p (sessionsBut a r (s.engines.get p).sessions)
      (s.engines.get p).captures (.fault (dataOn acc.dir 0))
    let tornRep : Report :=
      { kind := .torn, port := some p, detail := BitVec.ofNat 8 (g.done - g.got.length),
        window := BitVec.ofNat 5 a, address := b,
        value := if (s.spec a).stamp = true then
            BitVec.ofNat 32 ((g.got.getD 0 0).toNat % 65536) else 0,
        dest := Both.only p }
    let suspectRep : Report :=
      { kind := .suspect, port := none, detail := BitVec.ofNat 8 a, window := BitVec.ofNat 5 a,
        address := b, value := 0, dest := { a := true, b := true } }
    ((x ∈ s.torn ∨ (x ∉ s.torn ∧ 8 ≤ s.torn.length ∧ s.suspect[a]? = some true)) →
      exec (.memoryLimitExpires order) s
        = .next ((v.raise tornRep).chooseAfter order.grantAtEnd))
    ∧ (x ∉ s.torn → s.torn.length < 8 →
      exec (.memoryLimitExpires order) s
        = .next (({ v with torn := s.torn ++ [x] }.raise tornRep).chooseAfter order.grantAtEnd))
    ∧ (x ∉ s.torn → 8 ≤ s.torn.length → s.suspect[a]? = some false →
      exec (.memoryLimitExpires order) s
        = .next
            ((({ v with suspect := s.suspect.set a true }.raise suspectRep).raise
              tornRep).chooseAfter order.grantAtEnd))

/-- A notice burst reaches the memory limit: LREP is cleared, an entry burst adds 1 to PLOST, the
ring is handled for the head entry if the burst was for it, and PROD, CONS, LOST and SHADOW stand.
A loader operation reaches it: RESULT becomes MEMORY with one further status word write, unless that
write was the one. In each case a claim that waits may be granted as the operation ends, before the
claim that its end leads to (log entry 24). -/
def Obligations.ExpiredNoticeOrLoaderOperation : Prop :=
  ∀ (order : EndOrder) (s : State) (g : Granted) (w : WordAccess) (rest : List WordAccess),
    s.Overdue g w rest →
    (∀ q n, let r := s.rings.get q
      let less := fun k : Nat =>
        s.rings.set q
          { r with plost := BitVec.ofNat 16 (min 65535 (r.plost.toNat + k)), lrep := false }
      (∀ e es, s.queue = e :: es →
        let queue := if e.dest.get q.other = true ∧ e.handled.get q.other = false
          then { e with handled := e.handled.set q true } :: es else es
        (g.op = .entry q n →
          exec (.memoryLimitExpires order) s
            = .next ({ s.expired w with rings := less 1, queue := queue }.chooseAfter
                order.grantAtEnd))
        ∧ (g.op = .fullRing q n →
          exec (.memoryLimitExpires order) s
            = .next ({ s.expired w with rings := less 0, queue := queue }.chooseAfter
                order.grantAtEnd)))
      ∧ (g.op = .lossReport q n →
        exec (.memoryLimitExpires order) s
          = .next ({ s.expired w with rings := less 0 }.chooseAfter order.grantAtEnd)))
    ∧ ∀ ld, s.part = .loading ld →
      (g.op = .imageRead ∨ g.op = .status ∨ ∃ q, g.op = .ringHeader q) →
      (ld.phase ≠ .reporting ∨ s.result ≠ .memory) →
      exec (.memoryLimitExpires order) s
        = .next
            { (if order.grantAtEnd = true then (s.expired w).arbitrate else s.expired w) with
              part := .loading { ld with phase := .reporting }
              result := .memory
              loaderClaim := some (.status (inOrder s.straps.imgOrd
                ((0 : BitVec 8) ++ s.seq ++ (0 : BitVec 8) ++ (10 : BitVec 8)))) }.chooseNotice

/-- The hold limit reaches an access that is held or whose claim waits: the claim is withdrawn, the
access ends FAULT and one HOLD_TIMEOUT is received; a stamp read's or commit's session is discarded
(detail 1), a capture freed, WATCH emptied. A granted access, or one not yet so old, is not acted on
(log entry 1). -/
def Obligations.HoldLimitEndsTheAccess : Prop :=
  ∀ (p : Port) (s : State),
    let e := s.engines.get p
    let rep := fun (acc : Access) (window : BitVec 5) (detail : BitVec 8) =>
      ({ kind := .holdTimeout, port := some p, detail := detail, window := window,
         address := acc.addr, value := 0, dest := Both.only p } : Report)
    let fin := fun (acc : Access) (ss : List Session) (cs : List Capture) =>
      s.ended p ss cs (.fault (dataOn acc.dir 0))
    let due := fun acc : Access => s.holdLimit ≤ age s.timebase acc.arrived
    (∀ acc, e.estate = .held acc → due acc →
      exec (.holdLimitExpires p) s
        = .next ((fin acc e.sessions e.captures).raise (rep acc 31 0)).chooseNotice)
    ∧ (∀ acc t purpose, e.estate = .inMemory acc t (.single purpose) .waiting → due acc →
      let v := fin acc e.sessions e.captures
      let window := match t with | none => 31 | some t => t.cls.windowField
      exec (.holdLimitExpires p) s
        = .next
            ((match purpose with
              | .watched q _ =>
                { v with rings := s.rings.set q { s.rings.get q with watch := none } }
              | _ => v).raise (rep acc window 0)).chooseNotice)
    ∧ (∀ acc t job a r o b, e.estate = .inMemory acc (some t) job .waiting → due acc →
        IsRecord t.cls a r o b →
      ((job = .stampRead ∨ job = .commit) →
        exec (.holdLimitExpires p) s
          = .next
              ((fin acc (sessionsBut a r e.sessions) e.captures).raise
                (rep acc (BitVec.ofNat 5 a) 1)).chooseNotice)
      ∧ (job = .capture →
        exec (.holdLimitExpires p) s
          = .next
              ((fin acc e.sessions (capturesBut a r e.captures)).raise
                (rep acc (BitVec.ofNat 5 a) 0)).chooseNotice))
    ∧ ((e.estate = .idle ∨ (∃ acc t j, e.estate = .inMemory acc t j .granted)
        ∨ (∃ acc, e.estate = .held acc ∧ ¬ due acc)
        ∨ ∃ acc t j, e.estate = .inMemory acc t j .waiting ∧ ¬ due acc) →
      exec (.holdLimitExpires p) s = .next s)

/-! ## Whole-machine properties -/

/-- No command changes a byte of memory but the enabled lanes of the write access in progress, and those
only to the byte written; and every command keeps the canonical form of memory. That a write which
expired lands at its expiry or never is the model's choice (log entry 21). -/
def Obligations.StepChangesMemoryOnTheBusAlone : Prop :=
  (
    ∀ (c : Instr) (s t : State), s.mem.wf = true → exec c s = .next t →
      ∀ x, t.mem.readByte x ≠ s.mem.readByte x →
        ∃ g w rest, s.granted = some g ∧ g.todo = w :: rest ∧ w.dir = .write
          ∧ x / 4 = w.addr.toNat ∧ enabled w.be (x % 4) = true
          ∧ t.mem.readByte x = lane w.data (x % 4)
          ∧ accessOf c = none)
  ∧
  (
    ∀ s t : State, s.mem.wf = true → step s = .next t → t.mem.wf = true)

/-- An access of one port leaves the other port's engine, tables and pins, the map, the Torn Record
List, the flags, the granted operation, the attention lines and memory as they were; then the Notice
Unit makes its choice beside the access's claim, which can grant a waiting claim at an idle Memory Port
(log entry 24) but leaves the tables and pins of both ports, the map, the list, the flags, the lines and
memory. -/
def Obligations.AccessLeavesTheOtherPort : Prop :=
  ∀ (c : Instr) (p : Port) (l : Lines) (s t : State), accessOf c = some (p, l) →
    exec c s = .next t →
    ∃ u : State, t = u.chooseBeside p
      ∧ u.engines.get p.other = s.engines.get p.other ∧ u.pins.get p.other = s.pins.get p.other
      ∧ (∀ q, ∃ plost lrep watch,
          u.rings.get q = { s.rings.get q with plost := plost, lrep := lrep, watch := watch })
      ∧ u = { s with
              engines := u.engines, pins := u.pins, queue := u.queue, rings := u.rings,
              deferredLost := u.deferredLost }
      ∧ (∀ q, (t.engines.get q).sessions = (u.engines.get q).sessions
          ∧ (t.engines.get q).captures = (u.engines.get q).captures)
      ∧ (s.granted.isSome = true ∨ (s.engines.get p.other).waiting = false →
          t.engines.get p.other = s.engines.get p.other)
      ∧ (s.granted.isSome = true → t.granted = s.granted)
      ∧ (∀ q, ∃ plost, t.rings.get q = { u.rings.get q with plost := plost })
      ∧ t = { u with
              engines := t.engines, rings := t.rings, granted := t.granted, pointer := t.pointer,
              loaderClaim := t.loaderClaim, noticeClaim := t.noticeClaim, freeCount := t.freeCount }

/-- R35, R109 and R119 in every state: at most four sessions and four captures a port, never two of
one record nor a session and a capture of one; at most 8 queued notices; at most 8 distinct torn
records. -/
def Obligations.StepKeepsStoresBounded : Prop :=
  ∀ s t : State, s.StoresHold → step s = .next t → t.StoresHold

/-- R37 and R78: only the access in flight has a session that is not OPEN or a capture that is
FILLING; with no map the tables are empty; and while RESET is asserted the part stays as RESET left
it. -/
def Obligations.StepKeepsEntriesSettled : Prop :=
  ∀ s t : State, (∀ p, (s.engines.get p).EntriesSettled) → s.BareIsEmpty → s.HeldInReset →
    step s = .next t → (∀ p, (t.engines.get p).EntriesSettled) ∧ t.BareIsEmpty ∧ t.HeldInReset

/-- R96, R98, R102 and R164: one operation is carried at a time, and a claim is GRANTED exactly for
the access it is carried for; no port engine's claim waits while the part is LOADING. -/
def Obligations.StepKeepsClaimsInAgreement : Prop :=
  ∀ s t : State, s.ClaimsAgree → s.NoPortWaits → s.HeldInReset → step s = .next t →
    t.ClaimsAgree ∧ t.NoPortWaits ∧ t.HeldInReset

/-- R123: after every command the Notice Unit has its claim, or its burst is carried, or it has
nothing to claim. -/
def Obligations.StepKeepsTheNoticeUnitSettled : Prop :=
  ∀ s t : State, s.NoticeSettled → s.HeldInReset → step s = .next t →
    t.NoticeSettled ∧ t.HeldInReset

/-- R135: after every command each attention line is asserted exactly while its ring exists and
holds an unconsumed notice of severity at least the threshold. -/
def Obligations.StepKeepsAttentionRight : Prop :=
  ∀ s t : State, s.AttentionRight → step s = .next t → t.AttentionRight

/-- R129: in every configured ring no more notices are unconsumed than it has entries, and its SHADOW
marks exactly the unconsumed ones; a notice burst carried, and a watched write in flight, is for a
configured ring. -/
def Obligations.StepKeepsRingsWithinCapacity : Prop :=
  ∀ s t : State, s.RingsWithin → s.CountsHold → s.RingsNamed → s.ClaimsAgree → s.NoPortWaits →
    s.HeldInReset → step s = .next t → t.RingsWithin ∧ t.CountsHold ∧ t.RingsNamed

/-- R9 with R2 to R8 and R24: every map in force, and every candidate, keeps what validation
promises of it: no two windows, rings or IMAGE words overlap. -/
def Obligations.StepKeepsMapsValid : Prop :=
  ∀ s t : State, s.MapsHold → s.HeldInReset → step s = .next t → t.MapsHold

end Statements
end

