-- ==== Sys2Proof/Laws/State.lean ====
section
/-! SUPPORT. One lemma per field for each named update of State, true by rfl, and what each update
leaves of the two ports' shares. -/

namespace Sys2Proof.Machine

/-! ## setEngine -/

@[simp] theorem State.setEngine_pending (s : State) (p : Port) (e : Engine) :
    (s.setEngine p e).pending = s.pending := rfl

@[simp] theorem State.setEngine_resetAsserted (s : State) (p : Port) (e : Engine) :
    (s.setEngine p e).resetAsserted = s.resetAsserted := rfl

@[simp] theorem State.setEngine_pins (s : State) (p : Port) (e : Engine) :
    (s.setEngine p e).pins = s.pins := rfl

@[simp] theorem State.setEngine_ackHigh (s : State) (p : Port) (e : Engine) :
    (s.setEngine p e).ackHigh = s.ackHigh := rfl

@[simp] theorem State.setEngine_attn (s : State) (p : Port) (e : Engine) :
    (s.setEngine p e).attn = s.attn := rfl

@[simp] theorem State.setEngine_timebase (s : State) (p : Port) (e : Engine) :
    (s.setEngine p e).timebase = s.timebase := rfl

@[simp] theorem State.setEngine_refPeriods (s : State) (p : Port) (e : Engine) :
    (s.setEngine p e).refPeriods = s.refPeriods := rfl

@[simp] theorem State.setEngine_straps (s : State) (p : Port) (e : Engine) :
    (s.setEngine p e).straps = s.straps := rfl

@[simp] theorem State.setEngine_part (s : State) (p : Port) (e : Engine) :
    (s.setEngine p e).part = s.part := rfl

@[simp] theorem State.setEngine_result (s : State) (p : Port) (e : Engine) :
    (s.setEngine p e).result = s.result := rfl

@[simp] theorem State.setEngine_seq (s : State) (p : Port) (e : Engine) :
    (s.setEngine p e).seq = s.seq := rfl

@[simp] theorem State.setEngine_tornDisc (s : State) (p : Port) (e : Engine) :
    (s.setEngine p e).tornDisc = s.tornDisc := rfl

@[simp] theorem State.setEngine_loaderClaim (s : State) (p : Port) (e : Engine) :
    (s.setEngine p e).loaderClaim = s.loaderClaim := rfl

@[simp] theorem State.setEngine_engines (s : State) (p : Port) (e : Engine) :
    (s.setEngine p e).engines = s.engines.set p e := rfl

@[simp] theorem State.setEngine_pointer (s : State) (p : Port) (e : Engine) :
    (s.setEngine p e).pointer = s.pointer := rfl

@[simp] theorem State.setEngine_granted (s : State) (p : Port) (e : Engine) :
    (s.setEngine p e).granted = s.granted := rfl

@[simp] theorem State.setEngine_torn (s : State) (p : Port) (e : Engine) :
    (s.setEngine p e).torn = s.torn := rfl

@[simp] theorem State.setEngine_suspect (s : State) (p : Port) (e : Engine) :
    (s.setEngine p e).suspect = s.suspect := rfl

@[simp] theorem State.setEngine_queue (s : State) (p : Port) (e : Engine) :
    (s.setEngine p e).queue = s.queue := rfl

@[simp] theorem State.setEngine_rings (s : State) (p : Port) (e : Engine) :
    (s.setEngine p e).rings = s.rings := rfl

@[simp] theorem State.setEngine_deferredLost (s : State) (p : Port) (e : Engine) :
    (s.setEngine p e).deferredLost = s.deferredLost := rfl

@[simp] theorem State.setEngine_noticeClaim (s : State) (p : Port) (e : Engine) :
    (s.setEngine p e).noticeClaim = s.noticeClaim := rfl

@[simp] theorem State.setEngine_mem (s : State) (p : Port) (e : Engine) :
    (s.setEngine p e).mem = s.mem := rfl

@[simp] theorem State.setEngine_freeCount (s : State) (p : Port) (e : Engine) :
    (s.setEngine p e).freeCount = s.freeCount := rfl


/-! ## setPins -/

@[simp] theorem State.setPins_pending (s : State) (p : Port) (x : Pins) :
    (s.setPins p x).pending = s.pending := rfl

@[simp] theorem State.setPins_resetAsserted (s : State) (p : Port) (x : Pins) :
    (s.setPins p x).resetAsserted = s.resetAsserted := rfl

@[simp] theorem State.setPins_pins (s : State) (p : Port) (x : Pins) :
    (s.setPins p x).pins = s.pins.set p x := rfl

@[simp] theorem State.setPins_ackHigh (s : State) (p : Port) (x : Pins) :
    (s.setPins p x).ackHigh = s.ackHigh := rfl

@[simp] theorem State.setPins_attn (s : State) (p : Port) (x : Pins) :
    (s.setPins p x).attn = s.attn := rfl

@[simp] theorem State.setPins_timebase (s : State) (p : Port) (x : Pins) :
    (s.setPins p x).timebase = s.timebase := rfl

@[simp] theorem State.setPins_refPeriods (s : State) (p : Port) (x : Pins) :
    (s.setPins p x).refPeriods = s.refPeriods := rfl

@[simp] theorem State.setPins_straps (s : State) (p : Port) (x : Pins) :
    (s.setPins p x).straps = s.straps := rfl

@[simp] theorem State.setPins_part (s : State) (p : Port) (x : Pins) :
    (s.setPins p x).part = s.part := rfl

@[simp] theorem State.setPins_result (s : State) (p : Port) (x : Pins) :
    (s.setPins p x).result = s.result := rfl

@[simp] theorem State.setPins_seq (s : State) (p : Port) (x : Pins) :
    (s.setPins p x).seq = s.seq := rfl

@[simp] theorem State.setPins_tornDisc (s : State) (p : Port) (x : Pins) :
    (s.setPins p x).tornDisc = s.tornDisc := rfl

@[simp] theorem State.setPins_loaderClaim (s : State) (p : Port) (x : Pins) :
    (s.setPins p x).loaderClaim = s.loaderClaim := rfl

@[simp] theorem State.setPins_engines (s : State) (p : Port) (x : Pins) :
    (s.setPins p x).engines = s.engines := rfl

@[simp] theorem State.setPins_pointer (s : State) (p : Port) (x : Pins) :
    (s.setPins p x).pointer = s.pointer := rfl

@[simp] theorem State.setPins_granted (s : State) (p : Port) (x : Pins) :
    (s.setPins p x).granted = s.granted := rfl

@[simp] theorem State.setPins_torn (s : State) (p : Port) (x : Pins) :
    (s.setPins p x).torn = s.torn := rfl

@[simp] theorem State.setPins_suspect (s : State) (p : Port) (x : Pins) :
    (s.setPins p x).suspect = s.suspect := rfl

@[simp] theorem State.setPins_queue (s : State) (p : Port) (x : Pins) :
    (s.setPins p x).queue = s.queue := rfl

@[simp] theorem State.setPins_rings (s : State) (p : Port) (x : Pins) :
    (s.setPins p x).rings = s.rings := rfl

@[simp] theorem State.setPins_deferredLost (s : State) (p : Port) (x : Pins) :
    (s.setPins p x).deferredLost = s.deferredLost := rfl

@[simp] theorem State.setPins_noticeClaim (s : State) (p : Port) (x : Pins) :
    (s.setPins p x).noticeClaim = s.noticeClaim := rfl

@[simp] theorem State.setPins_mem (s : State) (p : Port) (x : Pins) :
    (s.setPins p x).mem = s.mem := rfl

@[simp] theorem State.setPins_freeCount (s : State) (p : Port) (x : Pins) :
    (s.setPins p x).freeCount = s.freeCount := rfl


/-! ## setRing -/

@[simp] theorem State.setRing_pending (s : State) (p : Port) (r : Ring) :
    (s.setRing p r).pending = s.pending := rfl

@[simp] theorem State.setRing_resetAsserted (s : State) (p : Port) (r : Ring) :
    (s.setRing p r).resetAsserted = s.resetAsserted := rfl

@[simp] theorem State.setRing_pins (s : State) (p : Port) (r : Ring) :
    (s.setRing p r).pins = s.pins := rfl

@[simp] theorem State.setRing_ackHigh (s : State) (p : Port) (r : Ring) :
    (s.setRing p r).ackHigh = s.ackHigh := rfl

@[simp] theorem State.setRing_attn (s : State) (p : Port) (r : Ring) :
    (s.setRing p r).attn = s.attn := rfl

@[simp] theorem State.setRing_timebase (s : State) (p : Port) (r : Ring) :
    (s.setRing p r).timebase = s.timebase := rfl

@[simp] theorem State.setRing_refPeriods (s : State) (p : Port) (r : Ring) :
    (s.setRing p r).refPeriods = s.refPeriods := rfl

@[simp] theorem State.setRing_straps (s : State) (p : Port) (r : Ring) :
    (s.setRing p r).straps = s.straps := rfl

@[simp] theorem State.setRing_part (s : State) (p : Port) (r : Ring) :
    (s.setRing p r).part = s.part := rfl

@[simp] theorem State.setRing_result (s : State) (p : Port) (r : Ring) :
    (s.setRing p r).result = s.result := rfl

@[simp] theorem State.setRing_seq (s : State) (p : Port) (r : Ring) :
    (s.setRing p r).seq = s.seq := rfl

@[simp] theorem State.setRing_tornDisc (s : State) (p : Port) (r : Ring) :
    (s.setRing p r).tornDisc = s.tornDisc := rfl

@[simp] theorem State.setRing_loaderClaim (s : State) (p : Port) (r : Ring) :
    (s.setRing p r).loaderClaim = s.loaderClaim := rfl

@[simp] theorem State.setRing_engines (s : State) (p : Port) (r : Ring) :
    (s.setRing p r).engines = s.engines := rfl

@[simp] theorem State.setRing_pointer (s : State) (p : Port) (r : Ring) :
    (s.setRing p r).pointer = s.pointer := rfl

@[simp] theorem State.setRing_granted (s : State) (p : Port) (r : Ring) :
    (s.setRing p r).granted = s.granted := rfl

@[simp] theorem State.setRing_torn (s : State) (p : Port) (r : Ring) :
    (s.setRing p r).torn = s.torn := rfl

@[simp] theorem State.setRing_suspect (s : State) (p : Port) (r : Ring) :
    (s.setRing p r).suspect = s.suspect := rfl

@[simp] theorem State.setRing_queue (s : State) (p : Port) (r : Ring) :
    (s.setRing p r).queue = s.queue := rfl

@[simp] theorem State.setRing_rings (s : State) (p : Port) (r : Ring) :
    (s.setRing p r).rings = s.rings.set p r := rfl

@[simp] theorem State.setRing_deferredLost (s : State) (p : Port) (r : Ring) :
    (s.setRing p r).deferredLost = s.deferredLost := rfl

@[simp] theorem State.setRing_noticeClaim (s : State) (p : Port) (r : Ring) :
    (s.setRing p r).noticeClaim = s.noticeClaim := rfl

@[simp] theorem State.setRing_mem (s : State) (p : Port) (r : Ring) :
    (s.setRing p r).mem = s.mem := rfl

@[simp] theorem State.setRing_freeCount (s : State) (p : Port) (r : Ring) :
    (s.setRing p r).freeCount = s.freeCount := rfl


/-! ## setEState -/

@[simp] theorem State.setEState_pending (s : State) (p : Port) (e : EState) :
    (s.setEState p e).pending = s.pending := rfl

@[simp] theorem State.setEState_resetAsserted (s : State) (p : Port) (e : EState) :
    (s.setEState p e).resetAsserted = s.resetAsserted := rfl

@[simp] theorem State.setEState_pins (s : State) (p : Port) (e : EState) :
    (s.setEState p e).pins = s.pins := rfl

@[simp] theorem State.setEState_ackHigh (s : State) (p : Port) (e : EState) :
    (s.setEState p e).ackHigh = s.ackHigh := rfl

@[simp] theorem State.setEState_attn (s : State) (p : Port) (e : EState) :
    (s.setEState p e).attn = s.attn := rfl

@[simp] theorem State.setEState_timebase (s : State) (p : Port) (e : EState) :
    (s.setEState p e).timebase = s.timebase := rfl

@[simp] theorem State.setEState_refPeriods (s : State) (p : Port) (e : EState) :
    (s.setEState p e).refPeriods = s.refPeriods := rfl

@[simp] theorem State.setEState_straps (s : State) (p : Port) (e : EState) :
    (s.setEState p e).straps = s.straps := rfl

@[simp] theorem State.setEState_part (s : State) (p : Port) (e : EState) :
    (s.setEState p e).part = s.part := rfl

@[simp] theorem State.setEState_result (s : State) (p : Port) (e : EState) :
    (s.setEState p e).result = s.result := rfl

@[simp] theorem State.setEState_seq (s : State) (p : Port) (e : EState) :
    (s.setEState p e).seq = s.seq := rfl

@[simp] theorem State.setEState_tornDisc (s : State) (p : Port) (e : EState) :
    (s.setEState p e).tornDisc = s.tornDisc := rfl

@[simp] theorem State.setEState_loaderClaim (s : State) (p : Port) (e : EState) :
    (s.setEState p e).loaderClaim = s.loaderClaim := rfl

@[simp] theorem State.setEState_engines (s : State) (p : Port) (e : EState) :
    (s.setEState p e).engines = s.engines.set p { s.engines.get p with estate := e } := rfl

@[simp] theorem State.setEState_pointer (s : State) (p : Port) (e : EState) :
    (s.setEState p e).pointer = s.pointer := rfl

@[simp] theorem State.setEState_granted (s : State) (p : Port) (e : EState) :
    (s.setEState p e).granted = s.granted := rfl

@[simp] theorem State.setEState_torn (s : State) (p : Port) (e : EState) :
    (s.setEState p e).torn = s.torn := rfl

@[simp] theorem State.setEState_suspect (s : State) (p : Port) (e : EState) :
    (s.setEState p e).suspect = s.suspect := rfl

@[simp] theorem State.setEState_queue (s : State) (p : Port) (e : EState) :
    (s.setEState p e).queue = s.queue := rfl

@[simp] theorem State.setEState_rings (s : State) (p : Port) (e : EState) :
    (s.setEState p e).rings = s.rings := rfl

@[simp] theorem State.setEState_deferredLost (s : State) (p : Port) (e : EState) :
    (s.setEState p e).deferredLost = s.deferredLost := rfl

@[simp] theorem State.setEState_noticeClaim (s : State) (p : Port) (e : EState) :
    (s.setEState p e).noticeClaim = s.noticeClaim := rfl

@[simp] theorem State.setEState_mem (s : State) (p : Port) (e : EState) :
    (s.setEState p e).mem = s.mem := rfl

@[simp] theorem State.setEState_freeCount (s : State) (p : Port) (e : EState) :
    (s.setEState p e).freeCount = s.freeCount := rfl


/-! ## setSessions -/

@[simp] theorem State.setSessions_pending (s : State) (p : Port) (t : List Session) :
    (s.setSessions p t).pending = s.pending := rfl

@[simp] theorem State.setSessions_resetAsserted (s : State) (p : Port) (t : List Session) :
    (s.setSessions p t).resetAsserted = s.resetAsserted := rfl

@[simp] theorem State.setSessions_pins (s : State) (p : Port) (t : List Session) :
    (s.setSessions p t).pins = s.pins := rfl

@[simp] theorem State.setSessions_ackHigh (s : State) (p : Port) (t : List Session) :
    (s.setSessions p t).ackHigh = s.ackHigh := rfl

@[simp] theorem State.setSessions_attn (s : State) (p : Port) (t : List Session) :
    (s.setSessions p t).attn = s.attn := rfl

@[simp] theorem State.setSessions_timebase (s : State) (p : Port) (t : List Session) :
    (s.setSessions p t).timebase = s.timebase := rfl

@[simp] theorem State.setSessions_refPeriods (s : State) (p : Port) (t : List Session) :
    (s.setSessions p t).refPeriods = s.refPeriods := rfl

@[simp] theorem State.setSessions_straps (s : State) (p : Port) (t : List Session) :
    (s.setSessions p t).straps = s.straps := rfl

@[simp] theorem State.setSessions_part (s : State) (p : Port) (t : List Session) :
    (s.setSessions p t).part = s.part := rfl

@[simp] theorem State.setSessions_result (s : State) (p : Port) (t : List Session) :
    (s.setSessions p t).result = s.result := rfl

@[simp] theorem State.setSessions_seq (s : State) (p : Port) (t : List Session) :
    (s.setSessions p t).seq = s.seq := rfl

@[simp] theorem State.setSessions_tornDisc (s : State) (p : Port) (t : List Session) :
    (s.setSessions p t).tornDisc = s.tornDisc := rfl

@[simp] theorem State.setSessions_loaderClaim (s : State) (p : Port) (t : List Session) :
    (s.setSessions p t).loaderClaim = s.loaderClaim := rfl

@[simp] theorem State.setSessions_engines (s : State) (p : Port) (t : List Session) :
    (s.setSessions p t).engines = s.engines.set p { s.engines.get p with sessions := t } := rfl

@[simp] theorem State.setSessions_pointer (s : State) (p : Port) (t : List Session) :
    (s.setSessions p t).pointer = s.pointer := rfl

@[simp] theorem State.setSessions_granted (s : State) (p : Port) (t : List Session) :
    (s.setSessions p t).granted = s.granted := rfl

@[simp] theorem State.setSessions_torn (s : State) (p : Port) (t : List Session) :
    (s.setSessions p t).torn = s.torn := rfl

@[simp] theorem State.setSessions_suspect (s : State) (p : Port) (t : List Session) :
    (s.setSessions p t).suspect = s.suspect := rfl

@[simp] theorem State.setSessions_queue (s : State) (p : Port) (t : List Session) :
    (s.setSessions p t).queue = s.queue := rfl

@[simp] theorem State.setSessions_rings (s : State) (p : Port) (t : List Session) :
    (s.setSessions p t).rings = s.rings := rfl

@[simp] theorem State.setSessions_deferredLost (s : State) (p : Port) (t : List Session) :
    (s.setSessions p t).deferredLost = s.deferredLost := rfl

@[simp] theorem State.setSessions_noticeClaim (s : State) (p : Port) (t : List Session) :
    (s.setSessions p t).noticeClaim = s.noticeClaim := rfl

@[simp] theorem State.setSessions_mem (s : State) (p : Port) (t : List Session) :
    (s.setSessions p t).mem = s.mem := rfl

@[simp] theorem State.setSessions_freeCount (s : State) (p : Port) (t : List Session) :
    (s.setSessions p t).freeCount = s.freeCount := rfl


/-! ## setCaptures -/

@[simp] theorem State.setCaptures_pending (s : State) (p : Port) (t : List Capture) :
    (s.setCaptures p t).pending = s.pending := rfl

@[simp] theorem State.setCaptures_resetAsserted (s : State) (p : Port) (t : List Capture) :
    (s.setCaptures p t).resetAsserted = s.resetAsserted := rfl

@[simp] theorem State.setCaptures_pins (s : State) (p : Port) (t : List Capture) :
    (s.setCaptures p t).pins = s.pins := rfl

@[simp] theorem State.setCaptures_ackHigh (s : State) (p : Port) (t : List Capture) :
    (s.setCaptures p t).ackHigh = s.ackHigh := rfl

@[simp] theorem State.setCaptures_attn (s : State) (p : Port) (t : List Capture) :
    (s.setCaptures p t).attn = s.attn := rfl

@[simp] theorem State.setCaptures_timebase (s : State) (p : Port) (t : List Capture) :
    (s.setCaptures p t).timebase = s.timebase := rfl

@[simp] theorem State.setCaptures_refPeriods (s : State) (p : Port) (t : List Capture) :
    (s.setCaptures p t).refPeriods = s.refPeriods := rfl

@[simp] theorem State.setCaptures_straps (s : State) (p : Port) (t : List Capture) :
    (s.setCaptures p t).straps = s.straps := rfl

@[simp] theorem State.setCaptures_part (s : State) (p : Port) (t : List Capture) :
    (s.setCaptures p t).part = s.part := rfl

@[simp] theorem State.setCaptures_result (s : State) (p : Port) (t : List Capture) :
    (s.setCaptures p t).result = s.result := rfl

@[simp] theorem State.setCaptures_seq (s : State) (p : Port) (t : List Capture) :
    (s.setCaptures p t).seq = s.seq := rfl

@[simp] theorem State.setCaptures_tornDisc (s : State) (p : Port) (t : List Capture) :
    (s.setCaptures p t).tornDisc = s.tornDisc := rfl

@[simp] theorem State.setCaptures_loaderClaim (s : State) (p : Port) (t : List Capture) :
    (s.setCaptures p t).loaderClaim = s.loaderClaim := rfl

@[simp] theorem State.setCaptures_engines (s : State) (p : Port) (t : List Capture) :
    (s.setCaptures p t).engines = s.engines.set p { s.engines.get p with captures := t } := rfl

@[simp] theorem State.setCaptures_pointer (s : State) (p : Port) (t : List Capture) :
    (s.setCaptures p t).pointer = s.pointer := rfl

@[simp] theorem State.setCaptures_granted (s : State) (p : Port) (t : List Capture) :
    (s.setCaptures p t).granted = s.granted := rfl

@[simp] theorem State.setCaptures_torn (s : State) (p : Port) (t : List Capture) :
    (s.setCaptures p t).torn = s.torn := rfl

@[simp] theorem State.setCaptures_suspect (s : State) (p : Port) (t : List Capture) :
    (s.setCaptures p t).suspect = s.suspect := rfl

@[simp] theorem State.setCaptures_queue (s : State) (p : Port) (t : List Capture) :
    (s.setCaptures p t).queue = s.queue := rfl

@[simp] theorem State.setCaptures_rings (s : State) (p : Port) (t : List Capture) :
    (s.setCaptures p t).rings = s.rings := rfl

@[simp] theorem State.setCaptures_deferredLost (s : State) (p : Port) (t : List Capture) :
    (s.setCaptures p t).deferredLost = s.deferredLost := rfl

@[simp] theorem State.setCaptures_noticeClaim (s : State) (p : Port) (t : List Capture) :
    (s.setCaptures p t).noticeClaim = s.noticeClaim := rfl

@[simp] theorem State.setCaptures_mem (s : State) (p : Port) (t : List Capture) :
    (s.setCaptures p t).mem = s.mem := rfl

@[simp] theorem State.setCaptures_freeCount (s : State) (p : Port) (t : List Capture) :
    (s.setCaptures p t).freeCount = s.freeCount := rfl


/-! ## claim -/

@[simp] theorem State.claim_pending (s : State) (p : Port) (acc : Access) (tk : Option Taken) (job : Job) :
    (s.claim p acc tk job).pending = s.pending := rfl

@[simp] theorem State.claim_resetAsserted (s : State) (p : Port) (acc : Access) (tk : Option Taken) (job : Job) :
    (s.claim p acc tk job).resetAsserted = s.resetAsserted := rfl

@[simp] theorem State.claim_pins (s : State) (p : Port) (acc : Access) (tk : Option Taken) (job : Job) :
    (s.claim p acc tk job).pins = s.pins := rfl

@[simp] theorem State.claim_ackHigh (s : State) (p : Port) (acc : Access) (tk : Option Taken) (job : Job) :
    (s.claim p acc tk job).ackHigh = s.ackHigh := rfl

@[simp] theorem State.claim_attn (s : State) (p : Port) (acc : Access) (tk : Option Taken) (job : Job) :
    (s.claim p acc tk job).attn = s.attn := rfl

@[simp] theorem State.claim_timebase (s : State) (p : Port) (acc : Access) (tk : Option Taken) (job : Job) :
    (s.claim p acc tk job).timebase = s.timebase := rfl

@[simp] theorem State.claim_refPeriods (s : State) (p : Port) (acc : Access) (tk : Option Taken) (job : Job) :
    (s.claim p acc tk job).refPeriods = s.refPeriods := rfl

@[simp] theorem State.claim_straps (s : State) (p : Port) (acc : Access) (tk : Option Taken) (job : Job) :
    (s.claim p acc tk job).straps = s.straps := rfl

@[simp] theorem State.claim_part (s : State) (p : Port) (acc : Access) (tk : Option Taken) (job : Job) :
    (s.claim p acc tk job).part = s.part := rfl

@[simp] theorem State.claim_result (s : State) (p : Port) (acc : Access) (tk : Option Taken) (job : Job) :
    (s.claim p acc tk job).result = s.result := rfl

@[simp] theorem State.claim_seq (s : State) (p : Port) (acc : Access) (tk : Option Taken) (job : Job) :
    (s.claim p acc tk job).seq = s.seq := rfl

@[simp] theorem State.claim_tornDisc (s : State) (p : Port) (acc : Access) (tk : Option Taken) (job : Job) :
    (s.claim p acc tk job).tornDisc = s.tornDisc := rfl

@[simp] theorem State.claim_loaderClaim (s : State) (p : Port) (acc : Access) (tk : Option Taken) (job : Job) :
    (s.claim p acc tk job).loaderClaim = s.loaderClaim := rfl

@[simp] theorem State.claim_engines (s : State) (p : Port) (acc : Access) (tk : Option Taken) (job : Job) :
    (s.claim p acc tk job).engines = s.engines.set p { s.engines.get p with estate := .inMemory acc tk job .waiting } := rfl

@[simp] theorem State.claim_pointer (s : State) (p : Port) (acc : Access) (tk : Option Taken) (job : Job) :
    (s.claim p acc tk job).pointer = s.pointer := rfl

@[simp] theorem State.claim_granted (s : State) (p : Port) (acc : Access) (tk : Option Taken) (job : Job) :
    (s.claim p acc tk job).granted = s.granted := rfl

@[simp] theorem State.claim_torn (s : State) (p : Port) (acc : Access) (tk : Option Taken) (job : Job) :
    (s.claim p acc tk job).torn = s.torn := rfl

@[simp] theorem State.claim_suspect (s : State) (p : Port) (acc : Access) (tk : Option Taken) (job : Job) :
    (s.claim p acc tk job).suspect = s.suspect := rfl

@[simp] theorem State.claim_queue (s : State) (p : Port) (acc : Access) (tk : Option Taken) (job : Job) :
    (s.claim p acc tk job).queue = s.queue := rfl

@[simp] theorem State.claim_rings (s : State) (p : Port) (acc : Access) (tk : Option Taken) (job : Job) :
    (s.claim p acc tk job).rings = s.rings := rfl

@[simp] theorem State.claim_deferredLost (s : State) (p : Port) (acc : Access) (tk : Option Taken) (job : Job) :
    (s.claim p acc tk job).deferredLost = s.deferredLost := rfl

@[simp] theorem State.claim_noticeClaim (s : State) (p : Port) (acc : Access) (tk : Option Taken) (job : Job) :
    (s.claim p acc tk job).noticeClaim = s.noticeClaim := rfl

@[simp] theorem State.claim_mem (s : State) (p : Port) (acc : Access) (tk : Option Taken) (job : Job) :
    (s.claim p acc tk job).mem = s.mem := rfl

@[simp] theorem State.claim_freeCount (s : State) (p : Port) (acc : Access) (tk : Option Taken) (job : Job) :
    (s.claim p acc tk job).freeCount = s.freeCount := rfl


/-! ## endAccess -/

@[simp] theorem State.endAccess_pending (s : State) (p : Port) (o : PortOut) :
    (s.endAccess p o).pending = s.pending := rfl

@[simp] theorem State.endAccess_resetAsserted (s : State) (p : Port) (o : PortOut) :
    (s.endAccess p o).resetAsserted = s.resetAsserted := rfl

@[simp] theorem State.endAccess_pins (s : State) (p : Port) (o : PortOut) :
    (s.endAccess p o).pins = s.pins.set p { s.pins.get p with out := o } := rfl

@[simp] theorem State.endAccess_ackHigh (s : State) (p : Port) (o : PortOut) :
    (s.endAccess p o).ackHigh = s.ackHigh := rfl

@[simp] theorem State.endAccess_attn (s : State) (p : Port) (o : PortOut) :
    (s.endAccess p o).attn = s.attn := rfl

@[simp] theorem State.endAccess_timebase (s : State) (p : Port) (o : PortOut) :
    (s.endAccess p o).timebase = s.timebase := rfl

@[simp] theorem State.endAccess_refPeriods (s : State) (p : Port) (o : PortOut) :
    (s.endAccess p o).refPeriods = s.refPeriods := rfl

@[simp] theorem State.endAccess_straps (s : State) (p : Port) (o : PortOut) :
    (s.endAccess p o).straps = s.straps := rfl

@[simp] theorem State.endAccess_part (s : State) (p : Port) (o : PortOut) :
    (s.endAccess p o).part = s.part := rfl

@[simp] theorem State.endAccess_result (s : State) (p : Port) (o : PortOut) :
    (s.endAccess p o).result = s.result := rfl

@[simp] theorem State.endAccess_seq (s : State) (p : Port) (o : PortOut) :
    (s.endAccess p o).seq = s.seq := rfl

@[simp] theorem State.endAccess_tornDisc (s : State) (p : Port) (o : PortOut) :
    (s.endAccess p o).tornDisc = s.tornDisc := rfl

@[simp] theorem State.endAccess_loaderClaim (s : State) (p : Port) (o : PortOut) :
    (s.endAccess p o).loaderClaim = s.loaderClaim := rfl

@[simp] theorem State.endAccess_engines (s : State) (p : Port) (o : PortOut) :
    (s.endAccess p o).engines = s.engines.set p { s.engines.get p with estate := .idle } := rfl

@[simp] theorem State.endAccess_pointer (s : State) (p : Port) (o : PortOut) :
    (s.endAccess p o).pointer = s.pointer := rfl

@[simp] theorem State.endAccess_granted (s : State) (p : Port) (o : PortOut) :
    (s.endAccess p o).granted = s.granted := rfl

@[simp] theorem State.endAccess_torn (s : State) (p : Port) (o : PortOut) :
    (s.endAccess p o).torn = s.torn := rfl

@[simp] theorem State.endAccess_suspect (s : State) (p : Port) (o : PortOut) :
    (s.endAccess p o).suspect = s.suspect := rfl

@[simp] theorem State.endAccess_queue (s : State) (p : Port) (o : PortOut) :
    (s.endAccess p o).queue = s.queue := rfl

@[simp] theorem State.endAccess_rings (s : State) (p : Port) (o : PortOut) :
    (s.endAccess p o).rings = s.rings := rfl

@[simp] theorem State.endAccess_deferredLost (s : State) (p : Port) (o : PortOut) :
    (s.endAccess p o).deferredLost = s.deferredLost := rfl

@[simp] theorem State.endAccess_noticeClaim (s : State) (p : Port) (o : PortOut) :
    (s.endAccess p o).noticeClaim = s.noticeClaim := rfl

@[simp] theorem State.endAccess_mem (s : State) (p : Port) (o : PortOut) :
    (s.endAccess p o).mem = s.mem := rfl

@[simp] theorem State.endAccess_freeCount (s : State) (p : Port) (o : PortOut) :
    (s.endAccess p o).freeCount = s.freeCount := rfl


/-! ## endOp -/

@[simp] theorem State.endOp_pending (s : State) :
    (s.endOp).pending = s.pending := rfl

@[simp] theorem State.endOp_resetAsserted (s : State) :
    (s.endOp).resetAsserted = s.resetAsserted := rfl

@[simp] theorem State.endOp_pins (s : State) :
    (s.endOp).pins = s.pins := rfl

@[simp] theorem State.endOp_ackHigh (s : State) :
    (s.endOp).ackHigh = s.ackHigh := rfl

@[simp] theorem State.endOp_attn (s : State) :
    (s.endOp).attn = s.attn := rfl

@[simp] theorem State.endOp_timebase (s : State) :
    (s.endOp).timebase = s.timebase := rfl

@[simp] theorem State.endOp_refPeriods (s : State) :
    (s.endOp).refPeriods = s.refPeriods := rfl

@[simp] theorem State.endOp_straps (s : State) :
    (s.endOp).straps = s.straps := rfl

@[simp] theorem State.endOp_part (s : State) :
    (s.endOp).part = s.part := rfl

@[simp] theorem State.endOp_result (s : State) :
    (s.endOp).result = s.result := rfl

@[simp] theorem State.endOp_seq (s : State) :
    (s.endOp).seq = s.seq := rfl

@[simp] theorem State.endOp_tornDisc (s : State) :
    (s.endOp).tornDisc = s.tornDisc := rfl

@[simp] theorem State.endOp_loaderClaim (s : State) :
    (s.endOp).loaderClaim = s.loaderClaim := rfl

@[simp] theorem State.endOp_engines (s : State) :
    (s.endOp).engines = s.engines := rfl

@[simp] theorem State.endOp_pointer (s : State) :
    (s.endOp).pointer = s.pointer := rfl

@[simp] theorem State.endOp_granted (s : State) :
    (s.endOp).granted = none := rfl

@[simp] theorem State.endOp_torn (s : State) :
    (s.endOp).torn = s.torn := rfl

@[simp] theorem State.endOp_suspect (s : State) :
    (s.endOp).suspect = s.suspect := rfl

@[simp] theorem State.endOp_queue (s : State) :
    (s.endOp).queue = s.queue := rfl

@[simp] theorem State.endOp_rings (s : State) :
    (s.endOp).rings = s.rings := rfl

@[simp] theorem State.endOp_deferredLost (s : State) :
    (s.endOp).deferredLost = s.deferredLost := rfl

@[simp] theorem State.endOp_noticeClaim (s : State) :
    (s.endOp).noticeClaim = s.noticeClaim := rfl

@[simp] theorem State.endOp_mem (s : State) :
    (s.endOp).mem = s.mem := rfl

@[simp] theorem State.endOp_freeCount (s : State) :
    (s.endOp).freeCount = s.freeCount := rfl


/-! ## issue -/

@[simp] theorem State.issue_pending (s : State) (op : Op) (todo : List WordAccess) (done : Nat) (got : List Word) :
    (s.issue op todo done got).pending = s.pending := rfl

@[simp] theorem State.issue_resetAsserted (s : State) (op : Op) (todo : List WordAccess) (done : Nat) (got : List Word) :
    (s.issue op todo done got).resetAsserted = s.resetAsserted := rfl

@[simp] theorem State.issue_pins (s : State) (op : Op) (todo : List WordAccess) (done : Nat) (got : List Word) :
    (s.issue op todo done got).pins = s.pins := rfl

@[simp] theorem State.issue_ackHigh (s : State) (op : Op) (todo : List WordAccess) (done : Nat) (got : List Word) :
    (s.issue op todo done got).ackHigh = s.ackHigh := rfl

@[simp] theorem State.issue_attn (s : State) (op : Op) (todo : List WordAccess) (done : Nat) (got : List Word) :
    (s.issue op todo done got).attn = s.attn := rfl

@[simp] theorem State.issue_timebase (s : State) (op : Op) (todo : List WordAccess) (done : Nat) (got : List Word) :
    (s.issue op todo done got).timebase = s.timebase := rfl

@[simp] theorem State.issue_refPeriods (s : State) (op : Op) (todo : List WordAccess) (done : Nat) (got : List Word) :
    (s.issue op todo done got).refPeriods = s.refPeriods := rfl

@[simp] theorem State.issue_straps (s : State) (op : Op) (todo : List WordAccess) (done : Nat) (got : List Word) :
    (s.issue op todo done got).straps = s.straps := rfl

@[simp] theorem State.issue_part (s : State) (op : Op) (todo : List WordAccess) (done : Nat) (got : List Word) :
    (s.issue op todo done got).part = s.part := rfl

@[simp] theorem State.issue_result (s : State) (op : Op) (todo : List WordAccess) (done : Nat) (got : List Word) :
    (s.issue op todo done got).result = s.result := rfl

@[simp] theorem State.issue_seq (s : State) (op : Op) (todo : List WordAccess) (done : Nat) (got : List Word) :
    (s.issue op todo done got).seq = s.seq := rfl

@[simp] theorem State.issue_tornDisc (s : State) (op : Op) (todo : List WordAccess) (done : Nat) (got : List Word) :
    (s.issue op todo done got).tornDisc = s.tornDisc := rfl

@[simp] theorem State.issue_loaderClaim (s : State) (op : Op) (todo : List WordAccess) (done : Nat) (got : List Word) :
    (s.issue op todo done got).loaderClaim = s.loaderClaim := rfl

@[simp] theorem State.issue_engines (s : State) (op : Op) (todo : List WordAccess) (done : Nat) (got : List Word) :
    (s.issue op todo done got).engines = s.engines := rfl

@[simp] theorem State.issue_pointer (s : State) (op : Op) (todo : List WordAccess) (done : Nat) (got : List Word) :
    (s.issue op todo done got).pointer = s.pointer := rfl

@[simp] theorem State.issue_granted (s : State) (op : Op) (todo : List WordAccess) (done : Nat) (got : List Word) :
    (s.issue op todo done got).granted = some { op := op, todo := todo, done := done, got := got, timer := s.timebase, limit := s.memoryLimit, presented := !s.ackHigh } := rfl

@[simp] theorem State.issue_torn (s : State) (op : Op) (todo : List WordAccess) (done : Nat) (got : List Word) :
    (s.issue op todo done got).torn = s.torn := rfl

@[simp] theorem State.issue_suspect (s : State) (op : Op) (todo : List WordAccess) (done : Nat) (got : List Word) :
    (s.issue op todo done got).suspect = s.suspect := rfl

@[simp] theorem State.issue_queue (s : State) (op : Op) (todo : List WordAccess) (done : Nat) (got : List Word) :
    (s.issue op todo done got).queue = s.queue := rfl

@[simp] theorem State.issue_rings (s : State) (op : Op) (todo : List WordAccess) (done : Nat) (got : List Word) :
    (s.issue op todo done got).rings = s.rings := rfl

@[simp] theorem State.issue_deferredLost (s : State) (op : Op) (todo : List WordAccess) (done : Nat) (got : List Word) :
    (s.issue op todo done got).deferredLost = s.deferredLost := rfl

@[simp] theorem State.issue_noticeClaim (s : State) (op : Op) (todo : List WordAccess) (done : Nat) (got : List Word) :
    (s.issue op todo done got).noticeClaim = s.noticeClaim := rfl

@[simp] theorem State.issue_mem (s : State) (op : Op) (todo : List WordAccess) (done : Nat) (got : List Word) :
    (s.issue op todo done got).mem = s.mem := rfl

@[simp] theorem State.issue_freeCount (s : State) (op : Op) (todo : List WordAccess) (done : Nat) (got : List Word) :
    (s.issue op todo done got).freeCount = s.freeCount := rfl


@[simp] theorem State.setEngine_map (s : State) (p : Port) (e : Engine) :
    (s.setEngine p e).map = s.map := rfl

@[simp] theorem State.setEngine_isLoading (s : State) (p : Port) (e : Engine) :
    (s.setEngine p e).isLoading = s.isLoading := rfl

@[simp] theorem State.setPins_map (s : State) (p : Port) (x : Pins) :
    (s.setPins p x).map = s.map := rfl

@[simp] theorem State.setPins_isLoading (s : State) (p : Port) (x : Pins) :
    (s.setPins p x).isLoading = s.isLoading := rfl

@[simp] theorem State.setRing_map (s : State) (p : Port) (r : Ring) :
    (s.setRing p r).map = s.map := rfl

@[simp] theorem State.setRing_isLoading (s : State) (p : Port) (r : Ring) :
    (s.setRing p r).isLoading = s.isLoading := rfl

@[simp] theorem State.setEState_map (s : State) (p : Port) (e : EState) :
    (s.setEState p e).map = s.map := rfl

@[simp] theorem State.setEState_isLoading (s : State) (p : Port) (e : EState) :
    (s.setEState p e).isLoading = s.isLoading := rfl

@[simp] theorem State.setSessions_map (s : State) (p : Port) (t : List Session) :
    (s.setSessions p t).map = s.map := rfl

@[simp] theorem State.setSessions_isLoading (s : State) (p : Port) (t : List Session) :
    (s.setSessions p t).isLoading = s.isLoading := rfl

@[simp] theorem State.setCaptures_map (s : State) (p : Port) (t : List Capture) :
    (s.setCaptures p t).map = s.map := rfl

@[simp] theorem State.setCaptures_isLoading (s : State) (p : Port) (t : List Capture) :
    (s.setCaptures p t).isLoading = s.isLoading := rfl

@[simp] theorem State.claim_map (s : State) (p : Port) (acc : Access) (tk : Option Taken) (job : Job) :
    (s.claim p acc tk job).map = s.map := rfl

@[simp] theorem State.claim_isLoading (s : State) (p : Port) (acc : Access) (tk : Option Taken) (job : Job) :
    (s.claim p acc tk job).isLoading = s.isLoading := rfl

@[simp] theorem State.endAccess_map (s : State) (p : Port) (o : PortOut) :
    (s.endAccess p o).map = s.map := rfl

@[simp] theorem State.endAccess_isLoading (s : State) (p : Port) (o : PortOut) :
    (s.endAccess p o).isLoading = s.isLoading := rfl

@[simp] theorem State.endOp_map (s : State) :
    (s.endOp).map = s.map := rfl

@[simp] theorem State.endOp_isLoading (s : State) :
    (s.endOp).isLoading = s.isLoading := rfl

@[simp] theorem State.issue_map (s : State) (op : Op) (todo : List WordAccess) (done : Nat) (got : List Word) :
    (s.issue op todo done got).map = s.map := rfl

@[simp] theorem State.issue_isLoading (s : State) (op : Op) (todo : List WordAccess) (done : Nat) (got : List Word) :
    (s.issue op todo done got).isLoading = s.isLoading := rfl

end Sys2Proof.Machine
end

