-- ==== Sys2Proof/Laws/Frames.lean ====
section
/-! SUPPORT. What the shared operations leave alone. A port engine's work stays within the ports and
the Notice Unit's stores; the arbiter's work within the claims and the granted operation. -/

namespace Sys2Proof.Machine

/-! ## Work of the port engines and of the Notice Unit -/

/-- `t` differs from `s` in the engines, the pins, the pending queue, the rings and the deferred lost
counts alone. -/
def State.PortWork (s t : State) : Prop :=
  t =
    { s with
      engines := t.engines
      pins := t.pins
      queue := t.queue
      rings := t.rings
      deferredLost := t.deferredLost }

theorem State.PortWork.refl (s : State) : s.PortWork s := rfl

theorem State.PortWork.trans {s t u : State} (h : s.PortWork t) (h' : t.PortWork u) :
    s.PortWork u := by
  unfold State.PortWork at *
  rw [h'] ; rw [h]

theorem State.PortWork.fields {s t : State} (h : s.PortWork t) :
    t.mem = s.mem ∧ t.part = s.part ∧ t.granted = s.granted ∧ t.timebase = s.timebase
      ∧ t.straps = s.straps ∧ t.torn = s.torn ∧ t.suspect = s.suspect ∧ t.result = s.result
      ∧ t.seq = s.seq ∧ t.tornDisc = s.tornDisc ∧ t.attn = s.attn ∧ t.pending = s.pending
      ∧ t.loaderClaim = s.loaderClaim ∧ t.noticeClaim = s.noticeClaim ∧ t.pointer = s.pointer
      ∧ t.ackHigh = s.ackHigh ∧ t.resetAsserted = s.resetAsserted ∧ t.refPeriods = s.refPeriods
      ∧ t.freeCount = s.freeCount := by
  unfold State.PortWork at h
  rw [h]
  exact ⟨rfl, rfl, rfl, rfl, rfl, rfl, rfl, rfl, rfl, rfl, rfl, rfl, rfl, rfl, rfl, rfl, rfl, rfl, rfl⟩

theorem State.PortWork.mem {s t : State} (h : s.PortWork t) : t.mem = s.mem := h.fields.1

theorem State.PortWork.part {s t : State} (h : s.PortWork t) : t.part = s.part := h.fields.2.1

theorem State.PortWork.granted {s t : State} (h : s.PortWork t) : t.granted = s.granted :=
  h.fields.2.2.1

theorem State.PortWork.map {s t : State} (h : s.PortWork t) : t.map = s.map := by
  simp only [State.map, h.part]

theorem State.PortWork.isLoading {s t : State} (h : s.PortWork t) : t.isLoading = s.isLoading := by
  simp only [State.isLoading, h.part]

theorem State.setEngine_work (s : State) (p : Port) (e : Engine) : s.PortWork (s.setEngine p e) := rfl
theorem State.setPins_work (s : State) (p : Port) (x : Pins) : s.PortWork (s.setPins p x) := rfl
theorem State.setRing_work (s : State) (p : Port) (r : Ring) : s.PortWork (s.setRing p r) := rfl
theorem State.endReady_work (s : State) (p : Port) (acc : Access) (w : Word) :
    s.PortWork (s.endReady p acc w) := rfl
theorem State.endFault_work (s : State) (p : Port) (acc : Access) : s.PortWork (s.endFault p acc) := rfl
theorem State.claim_work (s : State) (p : Port) (acc : Access) (t : Option Taken) (job : Job) :
    s.PortWork (s.claim p acc t job) := rfl
theorem State.freeSession_work (s : State) (p : Port) (w r : Nat) :
    s.PortWork (s.freeSession p w r) := rfl
theorem State.freeCapture_work (s : State) (p : Port) (w r : Nat) :
    s.PortWork (s.freeCapture p w r) := rfl

theorem State.raise_work (s : State) (r : Report) : s.PortWork (s.raise r) := by
  unfold State.raise
  cases s.map with
  | none => rfl
  | some m =>
    dsimp only
    repeat' split
    all_goals rfl

theorem State.raiseAll_work (s : State) (l : List Report) : s.PortWork (s.raiseAll l) := by
  induction l generalizing s with
  | nil => rfl
  | cons x xs ih => exact (s.raise_work _).trans (ih _)

/-- Notices received in order: a fold. -/
theorem State.raiseAll_eq (s : State) (l : List Report) : s.raiseAll l = l.foldl State.raise s := by
  induction l generalizing s with
  | nil => rfl
  | cons x xs ih => exact ih _

/-- Three sequences taken in turns hold what the three held, each in its order. -/
theorem interleave_sublist {α : Type} (ts : List Source) (xs ys zs : List α) :
    xs.Sublist (interleave ts xs ys zs) ∧ ys.Sublist (interleave ts xs ys zs)
      ∧ zs.Sublist (interleave ts xs ys zs)
      ∧ (interleave ts xs ys zs).length = xs.length + ys.length + zs.length := by
  induction ts, xs, ys, zs using interleave.induct with
  | case1 xs ys zs =>
    simp only [interleave, List.length_append, and_true]
    exact ⟨by rw [List.append_assoc]; exact List.sublist_append_left _ _,
      (List.sublist_append_right xs ys).trans (List.sublist_append_left _ _),
      List.sublist_append_right _ _⟩
  | case2 ts x xs ys zs ih =>
    obtain ⟨h1, h2, h3, h4⟩ := ih
    simp only [interleave, List.length_cons, h4]
    exact ⟨h1.cons_cons x, h2.cons x, h3.cons x, by omega⟩
  | case3 ts xs y ys zs ih =>
    obtain ⟨h1, h2, h3, h4⟩ := ih
    simp only [interleave, List.length_cons, h4]
    exact ⟨h1.cons y, h2.cons_cons y, h3.cons y, by omega⟩
  | case4 ts xs ys z zs ih =>
    obtain ⟨h1, h2, h3, h4⟩ := ih
    simp only [interleave, List.length_cons, h4]
    exact ⟨h1.cons z, h2.cons z, h3.cons_cons z, by omega⟩
  | case5 t ts xs ys zs ha hb hn ih => rwa [interleave.eq_5 _ _ _ _ _ ha hb hn]

/-- An effect and the notices it raises, received at once. -/
theorem State.received_work {s : State} {x : State × List Report} (h : s.PortWork x.1) :
    s.PortWork (received x) := h.trans (State.raiseAll_work _ _)

theorem State.refuse_work (s : State) (p : Port) (acc : Access) (c : Class) (why : RefusalReason) :
    s.PortWork (s.refuse p acc c why).1 := rfl

theorem State.unwatch_work (s : State) (job : Job) : s.PortWork (s.unwatch job) := by
  unfold State.unwatch
  split <;> rfl

theorem State.withdraw_work (s : State) (p : Port) : s.PortWork (s.withdraw p) := by
  unfold State.withdraw
  split
  · exact (s.unwatch_work _).trans rfl
  · rfl

theorem State.emptyForLoad_work (s : State) (p : Port) : s.PortWork (s.emptyForLoad p) := by
  unfold State.emptyForLoad
  dsimp only
  split
  · rfl
  · exact (s.withdraw_work p).trans rfl

theorem State.clearIfLoading_work (s : State) (p : Port) : s.PortWork (s.clearIfLoading p) := by
  unfold State.clearIfLoading
  split
  · exact (s.emptyForLoad_work p).trans (State.raiseAll_work _ _)
  · rfl

theorem State.stageWrite_work (s : State) (p : Port) (acc : Access) (t : Taken) (ses : Session)
    (o : Nat) : s.PortWork (s.stageWrite p acc t ses o) := by
  unfold State.stageWrite
  dsimp only
  split <;> rfl

theorem State.roomForSession_work (s : State) (p : Port) : s.PortWork (s.roomForSession p).1 := by
  unfold State.roomForSession
  repeat' split
  all_goals rfl

theorem State.openSession_work (s : State) (p : Port) (acc : Access) (t : Taken) (w r o : Nat)
    (b : WAddr) : s.PortWork (s.openSession p acc t w r o b).1 := by
  unfold State.openSession
  dsimp only
  have h : s.PortWork ((s.freeCapture p w r).roomForSession p).1 :=
    (s.freeCapture_work p w r).trans (State.roomForSession_work _ _)
  cases (s.spec w).policy with
  | guarded => exact h.trans rfl
  | last =>
    refine h.trans (State.PortWork.trans ?_ (State.stageWrite_work _ _ _ _ _ _))
    rfl

theorem State.writeRecord_work (s : State) (p : Port) (acc : Access) (t : Taken) (w r o : Nat)
    (b : WAddr) : s.PortWork (s.writeRecord p acc t w r o b).1 := by
  unfold State.writeRecord
  split
  · exact s.stageWrite_work _ _ _ _ _
  · exact s.openSession_work _ _ _ _ _ _ _

theorem State.ownRead_work (s : State) (p : Port) (acc : Access) (t : Taken) (ses : Session)
    (o : Nat) : s.PortWork (s.ownRead p acc t ses o) := by
  unfold State.ownRead
  dsimp only
  split <;> rfl

theorem State.serve_work (s : State) (p : Port) (acc : Access) (t : Taken) (c : Capture) (l : Live)
    (o : Nat) : s.PortWork (s.serve p acc t c l o) := rfl

theorem State.takeCapture_work (s : State) (p : Port) (acc : Access) (t : Taken) (w r : Nat)
    (b : WAddr) : s.PortWork (s.takeCapture p acc t w r b) := rfl

theorem State.readRecord_work (s : State) (p : Port) (acc : Access) (t : Taken) (w r o : Nat)
    (b : WAddr) : s.PortWork (s.readRecord p acc t w r o b) := by
  unfold State.readRecord
  repeat' split
  · exact s.ownRead_work _ _ _ _ _
  all_goals rfl

theorem State.takeImage_work (s : State) (m : RecordMap) (p : Port) (acc : Access) (t : Taken)
    (w : ImageWord) : s.PortWork (s.takeImage m p acc t w).1 := by
  unfold State.takeImage
  repeat' split
  all_goals rfl

theorem State.takeConsumer_work (s : State) (p : Port) (acc : Access) (t : Taken) (q : Port) :
    s.PortWork (s.takeConsumer p acc t q).1 := by
  unfold State.takeConsumer
  dsimp only
  repeat' split
  all_goals rfl

theorem State.takeRing_work (s : State) (p : Port) (acc : Access) (t : Taken) (q : Port)
    (role : RingRole) : s.PortWork (s.takeRing p acc t q role).1 := by
  unfold State.takeRing
  split
  · rfl
  · exact s.takeConsumer_work _ _ _ _
  · exact s.refuse_work _ _ _ _

theorem State.takePlain_work (s : State) (m : RecordMap) (p : Port) (acc : Access) (t : Taken)
    (w : Nat) : s.PortWork (s.takePlain m p acc t w).1 := by
  unfold State.takePlain
  split
  · rfl
  · exact s.refuse_work _ _ _ _

theorem State.takeUnmapped_work (s : State) (m : RecordMap) (p : Port) (acc : Access) (t : Taken) :
    s.PortWork (s.takeUnmapped m p acc t).1 := by
  unfold State.takeUnmapped
  split
  all_goals rfl

theorem State.takeRecord_work (s : State) (m : RecordMap) (p : Port) (acc : Access) (t : Taken)
    (w r o : Nat) (b : WAddr) (role : WordRole) :
    s.PortWork (s.takeRecord m p acc t w r o b role).1 := by
  unfold State.takeRecord
  repeat' split
  all_goals first
    | exact s.refuse_work _ _ _ _
    | exact s.readRecord_work _ _ _ _ _ _ _
    | exact s.writeRecord_work _ _ _ _ _ _ _

theorem State.takeClassed_work (s : State) (m : RecordMap) (p : Port) (acc : Access) (t : Taken) :
    s.PortWork (s.takeClassed m p acc t).1 := by
  unfold State.takeClassed
  split
  · exact s.takeImage_work _ _ _ _ _
  · exact s.takeRing_work _ _ _ _ _
  · exact s.takeRecord_work _ _ _ _ _ _ _ _ _
  · exact s.takePlain_work _ _ _ _ _
  · exact s.takeUnmapped_work _ _ _ _

theorem State.taking_work (s : State) (p : Port) (acc : Access) :
    s.PortWork (s.taking p acc).1 := by
  unfold State.taking
  split
  · unfold State.takeBare
    split <;> rfl
  · rfl
  · unfold State.takeActive
    split
    · rfl
    · exact s.takeClassed_work _ _ _ _

theorem State.takeAccess_work (s : State) (p : Port) (acc : Access) :
    s.PortWork (s.takeAccess p acc) := State.received_work (s.taking_work p acc)

theorem State.arriving_work (s : State) (p : Port) (l : Lines) :
    s.PortWork (s.arriving p l).1 := by
  unfold State.arriving
  dsimp only
  split
  · exact (s.setPins_work p _).trans (State.taking_work _ _ _)
  · rfl

theorem State.retake_work (s : State) (p : Port) : s.PortWork (s.retake p) := by
  unfold State.retake
  repeat' split
  · exact (s.endFault_work _ _).trans (State.raise_work _ _)
  · exact State.PortWork.trans (t := s.setEState p .idle) rfl (State.takeAccess_work _ _ _)
  · rfl

theorem State.retakeAfter_work (s : State) (limit : Nat) (p : Port) :
    s.PortWork (s.retakeAfter limit p) := by
  unfold State.retakeAfter
  repeat' split
  · exact (s.endFault_work _ _).trans (State.raise_work _ _)
  · exact s.retake_work p
  · rfl

/-- With the hold limit in force as the old one, a held access is taken afresh as R160 alone has it. -/
theorem State.retakeAfter_holdLimit (s : State) (p : Port) :
    s.retakeAfter s.holdLimit p = s.retake p := by
  unfold State.retakeAfter State.retake State.holdDue
  split
  · split <;> simp_all
  · rfl

@[simp] theorem State.takeEvents_nil (s : State) : s.takeEvents [] = (s, .nothing) := rfl

/-- An event: what it leaves, with the rest taken on that, and its notices first. -/
theorem State.takeEvents_cons (s : State) (e : EntryEvent) (es : List EntryEvent) :
    s.takeEvents (e :: es)
      = (((s.eventNow e).1.takeEvents es).1,
          ((s.eventNow e).1.takeEvents es).2.ahead (eventPort e) (s.eventNow e).2) := rfl

@[simp] theorem Awaiting.ahead_nil (x : Awaiting) (p : Port) : x.ahead p [] = x := by
  cases p <;> rfl

theorem State.dropJob_work (s : State) (p : Port) (t : Option Taken) (job : Job) :
    s.PortWork (s.dropJob p t job) := by
  unfold State.dropJob
  cases job with
  | single => exact s.unwatch_work _
  | _ => rfl

theorem State.holdExpiry_work {s t : State} {p : Port} {r : Report}
    (h : s.holdExpiry p = some (t, r)) : s.PortWork t := by
  unfold State.holdExpiry at h
  split at h
  · split at h
    · cases h; rfl
    · cases h
  · split at h
    · cases h; exact (s.dropJob_work _ _ _).trans rfl
    · cases h
  · cases h

theorem State.sessionExpiry_work {s t : State} {p : Port} {w k : Nat} {r : Report}
    (h : s.sessionExpiry p w k = some (t, r)) : s.PortWork t := by
  unfold State.sessionExpiry at h
  repeat' split at h
  all_goals cases h
  rfl

theorem State.eventNow_work (s : State) (e : EntryEvent) : s.PortWork (s.eventNow e).1 := by
  cases e with
  | hold p =>
    simp only [State.eventNow]
    cases h : s.holdExpiry p with
    | none => rfl
    | some x => exact State.holdExpiry_work h
  | session p w k =>
    simp only [State.eventNow]
    cases h : s.sessionExpiry p w k with
    | none => rfl
    | some x => exact State.sessionExpiry_work h
  | access p addr dir be data => exact s.arriving_work _ _

theorem State.takeEvents_work (s : State) (es : List EntryEvent) :
    s.PortWork (s.takeEvents es).1 := by
  induction es generalizing s with
  | nil => rfl
  | cons e es ih => exact (s.eventNow_work e).trans (ih _)

theorem State.handled_work (s : State) (p : Port) : s.PortWork (s.handled p) := rfl

theorem State.releaseDeferred_work (s : State) : s.PortWork s.releaseDeferred := by
  unfold State.releaseDeferred
  split <;> rfl

/-! ## The Notice Unit's choice -/

/-- The choice changes the Notice Unit's claim alone. -/
theorem State.chooseNotice_frame (s : State) :
    s.chooseNotice = { s with noticeClaim := s.chooseNotice.noticeClaim } := by
  unfold State.chooseNotice
  split <;> rfl

@[simp] theorem State.chooseNotice_mem (s : State) : s.chooseNotice.mem = s.mem := by
  rw [s.chooseNotice_frame]

@[simp] theorem State.chooseNotice_part (s : State) : s.chooseNotice.part = s.part := by
  rw [s.chooseNotice_frame]

@[simp] theorem State.chooseNotice_engines (s : State) : s.chooseNotice.engines = s.engines := by
  rw [s.chooseNotice_frame]

/-- Everything the choice can leave: a claim, or nothing to claim, or a burst being carried. -/
theorem State.chooseNotice_settled (s : State) :
    s.chooseNotice.noticeClaim.isSome ∨ s.chooseNotice.burstCarried = true
      ∨ s.chooseNotice.noticeChoice = none := by
  have hb : s.chooseNotice.burstCarried = s.burstCarried := by
    rw [s.chooseNotice_frame]; rfl
  have hn : s.chooseNotice.noticeChoice = s.noticeChoice := by
    rw [s.chooseNotice_frame]; rfl
  rw [hb, hn]
  cases hc : s.noticeClaim with
  | some c => left; simp [State.chooseNotice, hc]
  | none =>
    cases hbc : s.burstCarried with
    | true => right; left; rfl
    | false =>
      cases hch : s.noticeChoice with
      | none => right; right; rfl
      | some c => left; simp [State.chooseNotice, hc, hbc, hch]

/-! ## Work of the arbiter -/

/-- A grant changes the claims, POINTER, the granted operation, the engines and the rings alone. -/
def State.ArbiterWork (s t : State) : Prop :=
  t =
    { s with
      engines := t.engines
      rings := t.rings
      granted := t.granted
      pointer := t.pointer
      loaderClaim := t.loaderClaim
      noticeClaim := t.noticeClaim }

theorem State.ArbiterWork.trans {s t u : State} (h : s.ArbiterWork t) (h' : t.ArbiterWork u) :
    s.ArbiterWork u := by
  unfold State.ArbiterWork at *
  rw [h']; rw [h]

theorem State.issue_work (s : State) (op : Op) (todo : List WordAccess) (done : Nat)
    (got : List Word) : s.ArbiterWork (s.issue op todo done got) := rfl

theorem State.startPort_work (s : State) (p : Port) : s.ArbiterWork (s.startPort p) := by
  unfold State.startPort
  split
  · dsimp only
    split
    · rfl
    · rfl
    · rfl
    · unfold State.startCommit
      dsimp only
      split <;> rfl
  · rfl

theorem State.startLoader_work (s : State) (c : LoaderClaim) : s.ArbiterWork (s.startLoader c) := by
  unfold State.startLoader
  repeat' split
  all_goals rfl

theorem State.startNotice_work (s : State) (c : NoticeClaim) : s.ArbiterWork (s.startNotice c) := by
  unfold State.startNotice
  split
  · split <;> rfl
  · split
    · dsimp only
      split <;> rfl
    · rfl

theorem State.arbitrate_work (s : State) : s.ArbiterWork s.arbitrate := by
  unfold State.arbitrate
  split
  · rfl
  · split
    · exact State.ArbiterWork.trans (t := { s with loaderClaim := none }) rfl
        (State.startLoader_work _ _)
    · split
      · rfl
      · rename_i r _
        unfold State.startRotor
        dsimp only
        refine State.ArbiterWork.trans (t := { s with pointer := r.next }) rfl ?_
        split
        · exact State.startPort_work _ _
        · exact State.startPort_work _ _
        · split
          · rfl
          · exact State.ArbiterWork.trans
              (t := { s with pointer := Rotor.notice.next, noticeClaim := none }) rfl
              (State.startNotice_work _ _)

@[simp] theorem State.arbitrate_mem (s : State) : s.arbitrate.mem = s.mem := by
  have h := s.arbitrate_work
  unfold State.ArbiterWork at h
  rw [h]

@[simp] theorem State.grantIf_false (s : State) : s.grantIf false = s := rfl

@[simp] theorem State.grantIf_true (s : State) : s.grantIf true = s.arbitrate := rfl

theorem State.grantIf_work (s : State) (b : Bool) : s.ArbiterWork (s.grantIf b) := by
  cases b with
  | false => rfl
  | true => exact s.arbitrate_work

@[simp] theorem State.grantIf_mem (s : State) (b : Bool) : (s.grantIf b).mem = s.mem := by
  cases b <;> simp

@[simp] theorem State.chooseAfter_false (s : State) : s.chooseAfter false = s.chooseNotice := rfl

@[simp] theorem State.chooseAfter_true (s : State) :
    s.chooseAfter true = s.arbitrate.chooseNotice := rfl

theorem State.chooseNotice_work (s : State) : s.ArbiterWork s.chooseNotice := by
  unfold State.ArbiterWork
  rw [s.chooseNotice_frame]

theorem State.chooseAfter_work (s : State) (b : Bool) : s.ArbiterWork (s.chooseAfter b) :=
  (s.grantIf_work b).trans (State.chooseNotice_work _)

theorem State.setEState_arbiter (s : State) (p : Port) (e : EState) :
    s.ArbiterWork (s.setEState p e) := rfl

/-- Beside an arriving access the choice may be a grant as well: it changes what a grant changes, and
the count of free values. -/
theorem State.chooseBeside_frame (s : State) (p : Port) :
    ∃ n, { s with freeCount := n }.ArbiterWork (s.chooseBeside p) := by
  unfold State.chooseBeside
  split
  · refine ⟨s.freeCount + 1, ?_⟩
    dsimp only
    split
    · exact State.chooseNotice_work _
    · exact (State.arbitrate_work _).trans (State.chooseNotice_work _)
    · exact (((((State.setEState_arbiter _ p .idle).trans (State.chooseNotice_work _)).trans
        (State.arbitrate_work _)).trans (State.setEState_arbiter _ p _)).trans
          (State.chooseNotice_work _))
  · exact ⟨s.freeCount, State.chooseNotice_work _⟩

/-- With no claim of the engine beside it, the choice is the Notice Unit's alone. -/
theorem State.chooseBeside_of_not_waiting {s : State} {p : Port}
    (h : (s.engines.get p).waiting = false) : s.chooseBeside p = s.chooseNotice := by
  simp [State.chooseBeside, h]

/-- With nothing for the Notice Unit to choose, the choice is the Notice Unit's alone. -/
theorem State.chooseBeside_of_no_choice {s : State} {p : Port}
    (h : s.noticeClaim.isSome = true ∨ s.granted.isSome = true ∨ s.noticeChoice = none) :
    s.chooseBeside p = s.chooseNotice := by
  unfold State.chooseBeside
  rcases h with h | h | h
  · cases hc : s.noticeClaim <;> simp_all
  · cases hc : s.granted <;> simp_all
  · simp [h]

/-- An access presented changes the ports, the Notice Unit's stores and what a grant changes alone. -/
theorem State.present_frame (s : State) (p : Port) (l : Lines) :
    s.present p l =
      { s with
        engines := (s.present p l).engines
        pins := (s.present p l).pins
        queue := (s.present p l).queue
        rings := (s.present p l).rings
        deferredLost := (s.present p l).deferredLost
        granted := (s.present p l).granted
        pointer := (s.present p l).pointer
        loaderClaim := (s.present p l).loaderClaim
        noticeClaim := (s.present p l).noticeClaim
        freeCount := (s.present p l).freeCount } := by
  have h := State.received_work (s.arriving_work p l)
  obtain ⟨n, hb⟩ := State.chooseBeside_frame (received (s.arriving p l)) p
  change State.ArbiterWork _ (s.present p l) at hb
  unfold State.PortWork at h
  unfold State.ArbiterWork at hb
  rw [hb, h]

@[simp] theorem State.present_mem (s : State) (p : Port) (l : Lines) :
    (s.present p l).mem = s.mem := by rw [s.present_frame]

/-! ## The answer of the memory -/

/-- A write that lands on some lanes changes memory and the count of free values alone. -/
theorem State.landOn_frame (s : State) (w : WordAccess) (lanes : Lanes) :
    s.landOn w lanes =
      { s with mem := (s.landOn w lanes).mem, freeCount := (s.landOn w lanes).freeCount } := by
  unfold State.landOn
  split <;> rfl

/-- A write that expires changes memory and the count of free values alone. -/
theorem State.landExpired_frame (s : State) (w : WordAccess) :
    s.landExpired w =
      { s with mem := (s.landExpired w).mem, freeCount := (s.landExpired w).freeCount } :=
  s.landOn_frame w _

/-- A write that RESET cuts off changes memory and the count of free values alone. -/
theorem State.landCut_frame (s : State) (w : WordAccess) :
    s.landCut w = { s with mem := (s.landCut w).mem, freeCount := (s.landCut w).freeCount } :=
  s.landOn_frame w _

/-- A write that lands whole or not at all leaves its word as it was, or as written. -/
theorem State.landOn_whole (s : State) (w : WordAccess) :
    (s.landOn w s.wholeLanes).mem = s.mem
      ∨ (s.landOn w s.wholeLanes).mem = s.mem.writeWord w.addr w.be w.data := by
  unfold State.landOn State.wholeLanes
  cases w.dir with
  | read => exact .inl rfl
  | write =>
    cases Config.freeWhole s.freeCount with
    | true =>
      right
      have h : w.be &&& allLanes = w.be := BitVec.and_allOnes
      simp only [if_true, h]
    | false =>
      left
      simp [Memory.writeWord, Memory.writeLane, enabled]

/-- A write of a commit burst that RESET cuts off leaves its word whole (R73). -/
theorem State.landCut_commit {s : State} {g : Granted} {p : Port} {wr : Bool} (w : WordAccess)
    (hg : s.granted = some g) (ho : g.op = .commit p wr) :
    (s.landCut w).mem = s.mem ∨ (s.landCut w).mem = s.mem.writeWord w.addr w.be w.data := by
  have hc : s.commitCarried = true := by simp only [State.commitCarried, hg, ho]
  have h := s.landOn_whole w
  simpa only [State.landCut, State.cutLanes, hc, if_true] using h

/-- A write that expires leaves its word whole where R72, R107 and R128 say so. -/
theorem State.landExpired_whole {s : State} (w : WordAccess) (h : s.openWord = .whole) :
    (s.landExpired w).mem = s.mem ∨ (s.landExpired w).mem = s.mem.writeWord w.addr w.be w.data := by
  have h' := s.landOn_whole w
  simpa only [State.landExpired, State.expiredLanes, h] using h'

/-- A commit burst's word is whole (R72). -/
theorem State.openWord_commit {s : State} {g : Granted} {p : Port} {wr : Bool}
    (hg : s.granted = some g) (ho : g.op = .commit p wr) : s.openWord = .whole := by
  simp only [State.openWord, hg, ho]

/-- The producer word of a notice burst is whole (R107, R128). -/
theorem State.openWord_producer {s : State} {g : Granted} {q : Port} {n : Count} {w : WordAccess}
    (hg : s.granted = some g) (ht : g.todo = [w])
    (ho : g.op = .entry q n ∨ g.op = .fullRing q n ∨ g.op = .lossReport q n) :
    s.openWord = .whole := by
  rcases ho with h | h | h <;> simp only [State.openWord, hg, h, ht]

/-- The consumer count of a watched write is whole (R105, R132). -/
theorem State.openWord_watched {s : State} {g : Granted} {p q : Port} {n : Count} {acc : Access}
    {t : Option Taken} {c : ClaimState} (hg : s.granted = some g) (ho : g.op = .single p)
    (he : (s.engines.get p).estate = .inMemory acc t (.single (.watched q n)) c) :
    s.openWord = .count := by
  simp only [State.openWord, hg, ho, Engine.watching, he, if_true]

/-- An answer changes M_ACK, memory and the count of free values alone. -/
theorem State.answer_frame (s : State) (w : WordAccess) (ans : Answer) :
    s.answer w ans =
      { s with
        ackHigh := ans.held
        mem := (s.answer w ans).mem
        freeCount := (s.answer w ans).freeCount } := by
  unfold State.answer
  split
  · rfl
  · rfl
  · rw [State.landOn_frame]

/-- An answered read leaves memory as it was. -/
theorem State.answer_read (s : State) (w : WordAccess) (ans : Answer) (h : w.dir = .read) :
    s.answer w ans = { s with ackHigh := ans.held } := by
  unfold State.answer State.landOn
  rw [h]
  cases ans.late <;> rfl

/-- A write answered in its time changes memory on its enabled lanes. -/
theorem State.answer_write (s : State) (w : WordAccess) (ans : Answer) (h : w.dir = .write)
    (hl : ans.late = none) :
    s.answer w ans =
      { s with ackHigh := ans.held, mem := s.mem.writeWord w.addr w.be w.data } := by
  unfold State.answer
  rw [h, hl]

/-! ## The presented word access -/

theorem State.presented_eq {s : State} {g : Granted} {w : WordAccess} {ws : List WordAccess}
    (hg : s.granted = some g) (hp : g.presented = true) (ht : g.todo = w :: ws) :
    s.presented = some (g, w) := by
  simp only [State.presented, hg, hp, ht]

theorem State.presented_some {s : State} {g : Granted} {w : WordAccess}
    (h : s.presented = some (g, w)) :
    s.granted = some g ∧ g.presented = true ∧ ∃ ws, g.todo = w :: ws := by
  unfold State.presented at h
  split at h
  · simp at h
  · rename_i g' hg
    split at h
    · rename_i w' ws hp ht
      simp only [Option.some.injEq, Prod.mk.injEq] at h
      obtain ⟨rfl, rfl⟩ := h
      exact ⟨hg, hp, ws, ht⟩
    · simp at h

theorem State.lastAccess_eq {s : State} {g : Granted} {w : WordAccess}
    (hg : s.granted = some g) (hp : g.presented = true) (ht : g.todo = [w]) :
    s.lastAccess = some (g, w) := by
  simp only [State.lastAccess, State.presented_eq hg hp ht, ht]

theorem State.lastAccess_some {s : State} {g : Granted} {w : WordAccess}
    (h : s.lastAccess = some (g, w)) :
    s.granted = some g ∧ g.presented = true ∧ g.todo = [w] := by
  unfold State.lastAccess at h
  split at h
  · simp at h
  · rename_i g' w' hp
    split at h
    · rename_i x hx
      simp only [Option.some.injEq, Prod.mk.injEq] at h
      obtain ⟨rfl, rfl⟩ := h
      obtain ⟨a, b, ws, c⟩ := State.presented_some hp
      rw [hx] at c
      simp only [List.cons.injEq] at c
      exact ⟨a, b, by rw [hx, c.1]⟩
    · simp at h


end Sys2Proof.Machine
end

