-- ==== Sys2Proof/Laws/Arrivals.lean ====
section
/-! SUPPORT. How an access row comes to the port engine, and small lemmas about pairs, endings and
the Notice Unit's choice that the statements' proofs cite. -/

namespace Sys2Proof.Machine

@[simp] theorem Both.set_set {α : Type} (x : Both α) (p : Port) (v w : α) :
    (x.set p v).set p w = x.set p w := by cases p <;> rfl

@[simp] theorem Both.set_get {α : Type} (x : Both α) (p : Port) : x.set p (x.get p) = x := by
  cases p <;> rfl

@[simp] theorem Access.dataLines_eq (acc : Access) (w : Word) :
    acc.dataLines w = dataOn acc.dir w := by
  unfold Access.dataLines dataOn
  cases acc.dir <;> rfl

/-- Every access row presents its lines at its port. -/
theorem exec_access {c : Instr} {p : Port} {l : Lines} (h : accessOf c = some (p, l)) (s : State) :
    exec c s = .next (s.present p l) := by
  cases c <;> simp only [accessOf, Option.some.injEq, Prod.mk.injEq, reduceCtorEq] at h <;>
    (obtain ⟨rfl, rfl⟩ := h; rfl)

/-- Lines presented at a port that accepts them are taken as an access, its notice is received, and the
Notice Unit then makes its choice. -/
theorem State.present_accepts {s : State} {p : Port} (l : Lines) (h : s.Accepts p) :
    s.present p l =
      ((s.setPins p { s.pins.get p with strobe := some l }).takeAccess p
        (l.latch s.timebase)).chooseBeside p := by
  obtain ⟨a, b, c⟩ := h
  simp [State.present, State.arriving, State.takeAccess, a, b, c]

/-- A settled Notice Unit has no choice to make. -/
theorem State.chooseNotice_of_settled {s : State} (h : s.NoticeSettled) : s.chooseNotice = s := by
  unfold State.chooseNotice
  rcases h with h | h | h
  · cases hc : s.noticeClaim <;> simp_all
  · simp [h]
  · split
    · rename_i h'
      rw [h]
      simp only [Bool.and_eq_true, Option.isNone_iff_eq_none] at h'
      obtain ⟨h1, _⟩ := h'
      cases s
      simp_all
    · rfl

/-- Beside a settled Notice Unit an access makes its own claim alone. -/
theorem State.chooseBeside_of_settled {s : State} {p : Port} (h : s.NoticeSettled) :
    s.chooseBeside p = s := by
  have hs := State.chooseNotice_of_settled h
  refine (State.chooseBeside_of_no_choice ?_).trans hs
  rcases h with h | h | h
  · exact .inl h
  · refine .inr (.inl ?_)
    unfold State.burstCarried at h
    cases hg : s.granted <;> simp_all
  · exact .inr (.inr h)

/-- Ending an access is replacing the port's share of State. -/
theorem State.endAccess_eq (s : State) (p : Port) (o : PortOut) :
    s.endAccess p o =
      s.withPort p { s.engines.get p with estate := .idle } { s.pins.get p with out := o } := rfl

/-- Going to another ESTATE is replacing the port's engine. -/
theorem State.setEState_eq (s : State) (p : Port) (e : EState) :
    s.setEState p e = s.withPort p { s.engines.get p with estate := e } (s.pins.get p) := by
  simp [State.setEState, State.setEngine, State.withPort]

/-- The last word access on the bus, as the meanings read it. -/
theorem State.LastOnBus.lastAccess {s : State} {g : Granted} {w : WordAccess}
    (h : s.LastOnBus g w) : s.lastAccess = some (g, w) := State.lastAccess_eq h.1 h.2.1 h.2.2

/-- The word access on the bus, as the meanings read it. -/
theorem State.OnBus.presented {s : State} {g : Granted} {w : WordAccess} {rest : List WordAccess}
    (h : s.OnBus g w rest) : s.presented = some (g, w) := State.presented_eq h.1 h.2.1 h.2.2

/-- A word access past the memory limit, as the meanings read it. -/
theorem State.Overdue.memoryDue {s : State} {g : Granted} {w : WordAccess} {rest : List WordAccess}
    (h : s.Overdue g w rest) : s.memoryDue = some (g, w) := by
  simp only [State.memoryDue, h.1, h.2.1, h.2.2, if_true]

/-- A carried operation, as the meanings read it. -/
theorem State.Carries.inFlight {s : State} {p : Port} {acc : Access} {t : Option Taken} {job : Job}
    (h : s.Carries p acc t job) : s.inFlight p = some (acc, t, job) := by
  unfold State.Carries at h
  simp only [State.inFlight, h]

theorem State.Carries.flight {s : State} {p : Port} {acc : Access} {t : Taken} {job : Job}
    (h : s.Carries p acc (some t) job) : s.flight p job = some (acc, t) := by
  simp only [State.flight, h.inFlight, if_true]

/-- A session found for a record is of that record. -/
theorem Engine.sessionOf_key {e : Engine} {w r : Nat} {ses : Session}
    (h : e.sessionOf w r = some ses) : ses.window = w ∧ ses.record = r ∧ ses ∈ e.sessions := by
  unfold Engine.sessionOf at h
  have h1 := List.find?_some h
  have h2 := List.mem_of_find?_eq_some h
  simp only [Session.of, Bool.and_eq_true, decide_eq_true_eq] at h1
  exact ⟨h1.1, h1.2, h2⟩

/-- A capture found for a record is of that record. -/
theorem Engine.captureOf_key {e : Engine} {w r : Nat} {c : Capture}
    (h : e.captureOf w r = some c) : c.window = w ∧ c.record = r ∧ c ∈ e.captures := by
  unfold Engine.captureOf at h
  have h1 := List.find?_some h
  have h2 := List.mem_of_find?_eq_some h
  simp only [Capture.of, Bool.and_eq_true, decide_eq_true_eq] at h1
  exact ⟨h1.1, h1.2, h2⟩

/-- The record of a classified access of class RECORD. -/
theorem Taken.recordOf_eq {t : Taken} {w r o : Nat} {b : WAddr} (h : IsRecord t.cls w r o b) :
    t.recordOf = (w, r, o, b) := by
  obtain ⟨role, h⟩ := h
  simp only [Taken.recordOf, h]

/-- Notices received do not depend on the ports: receiving one commutes with replacing a port's
share of State. -/
theorem State.raise_withPort (s : State) (p : Port) (e : Engine) (x : Pins) (r : Report) :
    (s.withPort p e x).raise r = (s.raise r).withPort p e x := by
  unfold State.raise
  have hm : (s.withPort p e x).map = s.map := rfl
  have hl : (s.withPort p e x).isLoading = s.isLoading := rfl
  rw [hm, hl]
  cases s.map with
  | none => rfl
  | some m =>
    dsimp only
    repeat' split
    all_goals first | rfl | contradiction

end Sys2Proof.Machine
end

