-- ==== Sys2Proof/Laws/Memory.lean ====
section
/-! SUPPORT. The shared memory: a read after a write, and the canonical form that every memory
operation keeps. -/

namespace Sys2Proof.Machine

/-- A memory in canonical form from `lo` on lists no address below `lo`. -/
theorem Memory.readByte_below {m : Memory} {lo a : Nat} (h : m.wfFrom lo = true) (ha : a < lo) :
    m.readByte a = Config.unwrittenByte := by
  induction m generalizing lo with
  | nil => rfl
  | cons e m ih =>
    obtain ⟨k, v⟩ := e
    simp only [Memory.wfFrom, Bool.and_eq_true, decide_eq_true_eq] at h
    obtain ⟨⟨⟨hk, _⟩, _⟩, hr⟩ := h
    have hne : k ≠ a := by omega
    rw [Memory.readByte, if_neg hne]
    exact ih hr (by omega)

theorem Memory.wfFrom_mono {m : Memory} {lo lo' : Nat} (h : m.wfFrom lo = true) (hl : lo' ≤ lo) :
    m.wfFrom lo' = true := by
  cases m with
  | nil => rfl
  | cons e m =>
    obtain ⟨k, v⟩ := e
    simp only [Memory.wfFrom, Bool.and_eq_true, decide_eq_true_eq] at h ⊢
    exact ⟨⟨⟨by omega, h.1.1.2⟩, h.1.2⟩, h.2⟩

/-- What a byte reads as after a write of a byte. -/
theorem Memory.readByte_writeByte {m : Memory} {lo : Nat} (h : m.wfFrom lo = true) (a : Nat)
    (b : Byte) (x : Nat) :
    (m.writeByte a b).readByte x = if x = a then b else m.readByte x := by
  induction m generalizing lo with
  | nil =>
    by_cases hb : b = Config.unwrittenByte
    · by_cases hx : x = a <;> simp [Memory.writeByte, Memory.readByte, hb]
    · by_cases hx : x = a
      · simp [Memory.writeByte, Memory.readByte, hb, hx]
      · have : ¬ a = x := fun h => hx h.symm
        simp [Memory.writeByte, Memory.readByte, hb, hx, this]
  | cons e m ih =>
    obtain ⟨k, v⟩ := e
    simp only [Memory.wfFrom, Bool.and_eq_true, decide_eq_true_eq] at h
    obtain ⟨_, hr⟩ := h
    have hlow : ∀ y, y < k + 1 → Memory.readByte m y = Config.unwrittenByte :=
      fun y hy => Memory.readByte_below hr hy
    simp only [Memory.writeByte]
    split
    · rename_i hak
      split
      · rename_i hb
        by_cases hx : x = a
        · have hne : k ≠ a := by omega
          simp [Memory.readByte, hx, hne, hb, hlow a (by omega)]
        · simp [hx]
      · by_cases hx : x = a
        · simp [Memory.readByte, hx]
        · have : ¬ a = x := fun h => hx h.symm
          simp [Memory.readByte, hx, this]
    · rename_i hak
      split
      · rename_i heq
        subst heq
        split
        · rename_i hb
          by_cases hx : x = a
          · simp [hx, hb, hlow a (by omega)]
          · have : ¬ a = x := fun h => hx h.symm
            simp [Memory.readByte, hx, this]
        · by_cases hx : x = a
          · simp [Memory.readByte, hx]
          · have : ¬ a = x := fun h => hx h.symm
            simp [Memory.readByte, hx, this]
      · rename_i hne
        by_cases hkx : k = x
        · have : ¬ x = a := by omega
          simp [Memory.readByte, hkx, this]
        · simp [Memory.readByte, hkx, ih hr]

/-- A write of a byte keeps the canonical form. -/
theorem Memory.wfFrom_writeByte {m : Memory} {lo a : Nat} {b : Byte} (h : m.wfFrom lo = true)
    (hlo : lo ≤ a) (ha : a < Config.memoryBytes) : (m.writeByte a b).wfFrom lo = true := by
  induction m generalizing lo with
  | nil =>
    simp only [Memory.writeByte]
    split
    · rfl
    · rename_i hb
      simp [Memory.wfFrom, hlo, ha, hb]
  | cons e m ih =>
    obtain ⟨k, v⟩ := e
    have h0 := h
    simp only [Memory.wfFrom, Bool.and_eq_true, decide_eq_true_eq] at h
    obtain ⟨⟨⟨hk, hm⟩, hv⟩, hr⟩ := h
    simp only [Memory.writeByte]
    split
    · rename_i hak
      split
      · exact h0
      · rename_i hb
        simp only [Memory.wfFrom, Bool.and_eq_true, decide_eq_true_eq]
        exact ⟨⟨⟨hlo, ha⟩, by simpa using hb⟩, ⟨⟨by omega, hm⟩, hv⟩, hr⟩
    · rename_i hak
      split
      · rename_i heq
        subst heq
        split
        · exact Memory.wfFrom_mono hr (by omega)
        · rename_i hb
          simp only [Memory.wfFrom, Bool.and_eq_true, decide_eq_true_eq]
          exact ⟨⟨⟨hk, hm⟩, by simpa using hb⟩, hr⟩
      · simp only [Memory.wfFrom, Bool.and_eq_true, decide_eq_true_eq]
        exact ⟨⟨⟨hk, hm⟩, hv⟩, ih hr (by omega)⟩

theorem byteAddress_lt (w : WAddr) (k : Nat) (hk : k < 4) :
    byteAddress w k < Config.memoryBytes := by
  have := w.isLt
  simp only [byteAddress, Config.memoryBytes]
  omega

theorem Memory.wf_writeByte {m : Memory} {a : Nat} {b : Byte} (h : m.wf = true)
    (ha : a < Config.memoryBytes) : (m.writeByte a b).wf = true :=
  Memory.wfFrom_writeByte h (Nat.zero_le _) ha

theorem Memory.wf_writeLane {m : Memory} (h : m.wf = true) (w : WAddr) (be : Lanes) (d : Word)
    (k : Nat) (hk : k < 4) : (m.writeLane w be d k).wf = true := by
  unfold Memory.writeLane
  split
  · exact Memory.wf_writeByte h (byteAddress_lt w k hk)
  · exact h

/-- A write of a word keeps the canonical form. -/
theorem Memory.wf_writeWord {m : Memory} (h : m.wf = true) (w : WAddr) (be : Lanes) (d : Word) :
    (m.writeWord w be d).wf = true := by
  unfold Memory.writeWord
  exact Memory.wf_writeLane (Memory.wf_writeLane (Memory.wf_writeLane
    (Memory.wf_writeLane h w be d 0 (by omega)) w be d 1 (by omega)) w be d 2 (by omega)) w be d 3
    (by omega)

/-- What a byte reads as after a write of a lane. -/
theorem Memory.readByte_writeLane {m : Memory} (h : m.wf = true) (w : WAddr) (be : Lanes) (d : Word)
    (k x : Nat) :
    (m.writeLane w be d k).readByte x =
      if enabled be k = true ∧ x = byteAddress w k then lane d k else m.readByte x := by
  unfold Memory.writeLane
  split
  · rename_i hb
    rw [Memory.readByte_writeByte h]
    simp [hb]
  · rename_i hb
    simp [hb]

/-- What a byte reads as after a write of a word: the byte of its lane where the word has it and the
lane is enabled, what it read as before everywhere else. -/
theorem Memory.readByte_writeWord {m : Memory} (h : m.wf = true) (w : WAddr) (be : Lanes) (d : Word)
    (x : Nat) :
    (m.writeWord w be d).readByte x =
      if x / 4 = w.toNat ∧ enabled be (x % 4) = true then lane d (x % 4) else m.readByte x := by
  have h0 := Memory.wf_writeLane h w be d 0 (by omega)
  have h1 := Memory.wf_writeLane h0 w be d 1 (by omega)
  have h2 := Memory.wf_writeLane h1 w be d 2 (by omega)
  unfold Memory.writeWord
  rw [Memory.readByte_writeLane h2, Memory.readByte_writeLane h1, Memory.readByte_writeLane h0,
    Memory.readByte_writeLane h]
  simp only [byteAddress]
  by_cases hq : x / 4 = w.toNat
  · have hx : x = 4 * w.toNat + x % 4 := by omega
    have hr : x % 4 < 4 := Nat.mod_lt _ (by omega)
    simp only [hq, true_and]
    generalize x % 4 = r at hx hr ⊢
    subst hx
    have : r = 0 ∨ r = 1 ∨ r = 2 ∨ r = 3 := by omega
    rcases this with rfl | rfl | rfl | rfl <;> simp
  · have a0 : x ≠ 4 * w.toNat + 0 := by omega
    have a1 : x ≠ 4 * w.toNat + 1 := by omega
    have a2 : x ≠ 4 * w.toNat + 2 := by omega
    have a3 : x ≠ 4 * w.toNat + 3 := by omega
    simp [hq, a1, a2, a3, show x ≠ 4 * w.toNat by omega]

/-- Memory right after RESET has the canonical form. -/
theorem Memory.wf_reset : State.reset.mem.wf = true := rfl

end Sys2Proof.Machine
end

