-- ==== Sys2Proof/WellFormed.lean ====
section
/-! DEFINITION. Which commands are well formed: operands in the ranges the spec gives them. -/

namespace Sys2Proof

/-- An access that is not null enables at least one lane (R11). -/
def enablesSome (be : Lanes) : Bool := be != 0

/-- A read presents no write data (R165); the model writes it as zero. -/
def readsNoData (dir : Direction) (data : Word) : Bool :=
  match dir with
  | .read => data == 0
  | .write => true

/-- The window index of a record is 0 to 23 and its record index 0 to 4,095 (R2, R36). -/
def recordNamed (window record : Nat) : Bool := decide (window < 24) && decide (record < 4096)

/-- An event at the entry of LOADING: a session names a record (R36), a read drives no data. -/
def EntryEvent.named : EntryEvent → Bool
  | .hold _ => true
  | .session _ window record => recordNamed window record
  | .access _ _ dir _ data => readsNoData dir data

/-- A command's operands are in range. -/
def Instr.wellFormed : Instr → Bool
  | .reset => true
  | .resetRelease _ _ _ => true
  | .strobeRelease _ => true
  | .accessInBare _ _ dir _ data => readsNoData dir data
  | .heldAccess _ _ dir _ data => readsNoData dir data
  | .nullAccess _ _ dir data => readsNoData dir data
  | .recordWrite _ _ be _ => enablesSome be
  | .recordRead _ _ be => enablesSome be
  | .plainAccess _ _ dir be data => enablesSome be && readsNoData dir data
  | .unmappedAccess _ _ dir be data => enablesSome be && readsNoData dir data
  | .ringAccess _ _ dir be data => enablesSome be && readsNoData dir data
  | .consumerWordWrite _ _ be _ => enablesSome be
  | .requestWordWrite _ _ be _ => enablesSome be
  | .imageWordWrite _ _ be _ => enablesSome be
  | .grant => true
  | .wordAccessCompletes _ => true
  | .singleOperationCompletes _ => true
  | .consumerCountTaken _ => true
  | .requestWriteCompletes _ _ entry => entry.events.all EntryEvent.named
  | .stampReadCompletes _ => true
  | .commitStampReadCompletes _ => true
  | .commitBurstCompletes _ => true
  | .captureBurstCompletes _ => true
  | .entryBurstCompletes _ => true
  | .fullRingBurstCompletes _ => true
  | .lossReportCompletes _ => true
  | .inProgressWriteCompletes _ => true
  | .drained => true
  | .imageReadCompletes _ => true
  | .ringHeaderWriteCompletes _ => true
  | .doneWriteCompletes _ _ => true
  | .failureStatusWriteEnds _ _ => true
  | .memoryLimitExpires _ => true
  | .strayAcknowledge _ => true
  | .holdLimitExpires _ => true
  | .sessionLimitExpires _ window record => recordNamed window record
  | .captureLimitExpires _ window record => recordNamed window record
  | .imageWordRead _ _ be => enablesSome be
  | .timebaseTick => true
  | .acknowledgeReleased => true

end Sys2Proof
end

