-- ==== Sys2Proof/Tests/Slice0.lean ====
section
/-! SUPPORT. The model's own tests: ill-formed commands refused, the spec's worked values, one step on
small states, and for every statement with hypotheses a state and operands that meet them. -/

namespace Sys2Proof.Tests

open Sys2Proof Sys2Proof.Machine

/-! ## A small map and small states -/

/-- A layout of two data words: one 4-byte element, two 2-byte elements. -/
def layout : Layout :=
  { total := 8, runs := [⟨4, 1⟩, ⟨2, 2⟩], patterns := [.p4, .p22] }

def fullSpec : RecordSpec :=
  { reclen := 2, reccnt := 2, mode := .full, policy := .last, stamp := false, check := false,
    layout := 0 }

def guardedSpec : RecordSpec :=
  { reclen := 4, reccnt := 2, mode := .full, policy := .guarded, stamp := true, check := true,
    layout := 0 }

def closeSpec : RecordSpec :=
  { reclen := 3, reccnt := 1, mode := .close, policy := .last, stamp := true, check := false,
    layout := 0 }

def window0 : Window :=
  { base := 0x100, kind := .record fullSpec, rights := ⟨.readWrite, .readWrite⟩ }

def window1 : Window :=
  { base := 0x200, kind := .record guardedSpec, rights := ⟨.readWrite, .readWrite⟩ }

def window2 : Window :=
  { base := 0x300, kind := .record closeSpec, rights := ⟨.readWrite, .none⟩ }

def window3 : Window := { base := 0x500, kind := .plain 8 .two, rights := ⟨.read, .readWrite⟩ }

def ringA : RingPlace := { base := 0x600, cap := .c8 }

def ringB : RingPlace := { base := 0x700, cap := .c8 }

def map : RecordMap :=
  { windows := [window0, window1, window2, window3]
    layouts := [layout]
    settings :=
      ⟨{ order := .little, unmapped := .pass, thresh := 1, loadRight := true },
        { order := .big, unmapped := .refuse, thresh := 2, loadRight := false }⟩
    sessionLimit := 4
    captureLimit := 4
    holdLimit := 8
    memoryLimit := 3
    severities := [0, 3, 1, 2, 1, 2, 3, 3, 2, 1, 1]
    rings := ⟨some ringA, some ringB⟩ }

/-- ACTIVE with the map, the Timebase at 20, everything else as installed. -/
def live : State :=
  { State.reset with
    part := .active map
    timebase := 20
    suspect := [false, false, false, false]
    rings := ⟨freshRing (some ringA), freshRing (some ringB)⟩ }

/-- LOADING from ACTIVE in this PHASE. -/
def loadOf (ph : Phase) : Load := { from? := some map, phase := ph, reqPort := .a, reqN := 13 }

def loading (ph : Phase) : State := { live with part := .loading (loadOf ph) }

/-- Port A's engine and tables replaced. -/
def atA (s : State) (e : EState) (ss : List Session) (cs : List Capture) : State :=
  s.withPort .a { estate := e, sessions := ss, captures := cs } (s.pins.get .a)

/-- An operation of one word access, presented, issued 3 microseconds ago. -/
def lastOf (op : Op) (w : WordAccess) : Granted :=
  { op := op, todo := [w], done := 0, got := [], timer := 17, limit := 3, presented := true }

/-- The operation carried. -/
def carry (s : State) (g : Granted) : State := { s with granted := some g }

/-- An access that arrived 8 microseconds ago: the hold limit of the map. -/
def accOf (addr : WAddr) (dir : Direction) : Access :=
  { addr := addr, dir := dir, be := 15, data := 7, arrived := 12 }

def linesOf (addr : WAddr) (dir : Direction) (be : Lanes) (data : Word) : Lines :=
  { addr := addr, dir := dir, be := be, data := data }

/-- The access as port A takes it under the map. -/
def takenA (l : Lines) : Taken := live.takenOf map .a l

def answer : Answer := { held := false, late := none }

def order : EndOrder := { port := .a, notice := .between }

/-- Nothing meets the entry of LOADING. -/
def entryAlone : EntryOrder := { events := [], turns := [] }

/-- A session of record 1 of window 0: its first word is staged. -/
def ses0 : Session :=
  { window := 0, record := 1, base := 0x102, state := .open,
    stage := [⟨15, 7⟩, ⟨0, 0⟩], baseGen := none, opened := some 16 }

/-- A session of record 0 of window 1, with BASEGEN 5. -/
def ses1 (st : SessionState) : Session :=
  { window := 1, record := 0, base := 0x200, state := st,
    stage := [⟨0, 0⟩, ⟨15, 7⟩, ⟨0, 0⟩, ⟨0, 0⟩], baseGen := some 5, opened := some 16 }

/-- A session of the record of window 2: its closing word is staged. -/
def ses2 : Session :=
  { window := 2, record := 0, base := 0x300, state := .closing,
    stage := [⟨0, 0⟩, ⟨3, 0x0102⟩, ⟨15, 9⟩], baseGen := none, opened := some 16 }

/-- A LIVE capture of record 0 of window 0, its first word read. -/
def cap0 : Capture :=
  { window := 0, record := 0, base := 0x100, live := some ⟨false, [11, 12], 16⟩, readMask := 1 }

/-- A FILLING capture of record 0 of window 0. -/
def capFilling : Capture := { cap0 with live := none, readMask := 0 }

/-- Other sessions, to fill a table. -/
def filler (w r : Nat) : Session := { ses0 with window := w, record := r, state := .open }

def entryOf (deferred : Bool) : QueueEntry :=
  { notice :=
      { kind := .stale, port := some .a, severity := 1, detail := 0, window := 1, address := 0x200,
        value := 9, time := 4 }
    dest := ⟨true, true⟩, handled := ⟨false, false⟩, deferred := deferred }

def statusW : WordAccess := { addr := 1, dir := .write, be := 15, data := 0 }

def producerW : WordAccess := { addr := 0x600, dir := .write, be := 15, data := 0x00030001 }

def readW (a : WAddr) : WordAccess := { addr := a, dir := .read, be := 15, data := 0 }

def writeW (a : WAddr) : WordAccess := { addr := a, dir := .write, be := 15, data := 7 }

theorem live_accepts (p : Port) : live.Accepts p := by cases p <;> exact ⟨rfl, rfl, rfl⟩

theorem live_settled : live.NoticeSettled := .inr (.inr rfl)

/-! ## WellFormed refuses each ill-formed command -/

theorem test_no_lane_enabled : (Instr.recordRead .a 0x100 0).wellFormed = false := by decide
theorem test_no_lane_enabled_write :
    (Instr.recordWrite .a 0x100 0 1).wellFormed = false := by decide
theorem test_read_with_data :
    (Instr.plainAccess .a 0x100 .read 15 1).wellFormed = false := by decide
theorem test_null_read_with_data : (Instr.nullAccess .a 0 .read 1).wellFormed = false := by decide
theorem test_window_24 : (Instr.sessionLimitExpires .a 24 0).wellFormed = false := by decide
theorem test_record_4096 : (Instr.captureLimitExpires .a 23 4096).wellFormed = false := by decide
theorem test_entry_expiry_of_window_24 :
    (Instr.requestWriteCompletes answer false
      { events := [.hold .a, .session .b 24 0], turns := [] }).wellFormed = false := by decide
theorem test_entry_read_with_data :
    (Instr.requestWriteCompletes answer false
      { events := [.access .b 0 .read 15 1], turns := [] }).wellFormed = false := by decide
theorem test_last_record_is_well_formed :
    (Instr.captureLimitExpires .a 23 4095).wellFormed = true := by decide

/-! ## No row has bits -/

theorem test_no_word_spells_a_command : decodeTableWord 32 0xFFF2000D = none := by decide
theorem test_placing_no_command : State.reset.withFetchWord 32 0 = State.reset := by decide

/-! ## Values the spec works out -/

/-- spec/04 R67: the check value of the nine ASCII digits. -/
theorem test_crc_check_value :
    ~~~(crcBytes 0xFFFFFFFF#32 [0x31, 0x32, 0x33, 0x34, 0x35, 0x36, 0x37, 0x38, 0x39])
      = 0xCBF43926#32 := by decide +kernel

/-- spec/04 R66, spec/10 R178: generation 19 is followed by 20, 65535 by 1. -/
theorem test_stamp_words :
    newStamp guardedSpec .a [0x00000013] = [0x00000014#32]
      ∧ newStamp guardedSpec .b [0x00010013] = [0x00010014#32]
      ∧ newStamp guardedSpec .a [0xFFFFFFFF] = [0x00000001#32]
      ∧ newStamp guardedSpec .a [0] = [0x00000001#32] := by decide

/-- spec/10 "Ring Words": the STALE notice for port B. -/
theorem test_stale_notice_words :
    ({ kind := .stale, port := some .b, severity := 2, detail := 0, window := 5,
       address := 0x6002A, value := 0x001F001E, time := 2000000 } : Notice).words
      = [0x00050095#32, 0x0006002A#32, 0x001F001E#32, 0x001E8480#32] := by decide

/-- spec/10: the status word 1 / 1 / 1 / 0 of spec/11's BIG load, as read. -/
theorem test_status_word : statusValue .done 1 1 0 = 0x00010101#32 := by decide

/-- spec/08 steps 2 and 1, spec/11 step 4; N at the ends of its range; one bit of NCOMP wrong. -/
theorem test_request_words :
    requestLength .little 15 0xFFDC0023 = some 35
      ∧ requestLength .little 15 0xFFD80027 = some 39
      ∧ requestLength .big 15 0x1600E9FF = some 22
      ∧ requestLength .little 15 0xFFF2000D = some 13
      ∧ requestLength .little 15 0xFF6A0095 = some 149
      ∧ requestLength .little 15 0xFFF3000C = none
      ∧ requestLength .little 15 0xFF690096 = none
      ∧ requestLength .little 15 0xFFF3000D = none
      ∧ requestLength .little 7 0xFFF2000D = none := by decide

/-- spec/02 "a BIG Port Writes a Mixed Record", steps 1 to 5, port lanes and canonical lanes. -/
theorem test_big_port_words :
    mirrorWord .p22 0x78563412#32 = 0x56781234#32
      ∧ mirrorLanes .p121 6 = 6 ∧ mirrorWord .p121 0x00CDAB00#32 = 0x00ABCD00#32
      ∧ mirrorLanes .p4 3 = 12 ∧ mirrorWord .p4 0x0000BC9A#32 = 0x9ABC0000#32
      ∧ mirrorWord .p211 0x0B0A6824#32 = 0x0B0A2468#32 := by decide

/-- spec/02 "Checking a layout" as spec/10 encodes it. -/
theorem test_layout_of_six_runs :
    layoutOf [0x00001006, 0x000182C0, 0x00000080, 0, 0] 0
      = some
          { total := 16
            runs := [⟨4, 1⟩, ⟨2, 3⟩, ⟨1, 2⟩, ⟨1, 1⟩, ⟨2, 1⟩, ⟨1, 1⟩]
            patterns := [.p4, .p22, .p211, .p121] } := by decide

/-- R24: a 2-byte element from lane 3 straddles. -/
theorem test_straddling_layout_fails :
    layoutOf [0x00000802, 0x00008202, 0, 0, 0] 0 = none := by decide

/-- spec/10 "Encoding two entries": window 0 of the example map. -/
theorem test_window_entry :
    windowOf [0x00120000, 0x00000306, 0x00100008, 0] 0
      = some
          { base := 0x20000
            kind := .record
              { reclen := 8, reccnt := 16, mode := .full, policy := .last, stamp := true,
                check := true, layout := 0 }
            rights := ⟨.readWrite, .read⟩ } := by decide

/-- R176: KIND 2, RIGHTS 3, RECLEN 33 and EWIDTH 3 are refused. -/
theorem test_window_entries_out_of_range :
    windowOf [0x00200000, 0, 0, 0] 0 = none
      ∧ windowOf [0x00120000, 3, 0x00100008, 0] 0 = none
      ∧ windowOf [0x00120000, 0, 0x00100021, 0] 0 = none
      ∧ windowOf [0, 0x00030000, 0, 1] 0 = none := by decide

/-- R154: no region may end beyond FFFFFh; 34 words fit from FFFDEh, not from FFFDFh. -/
theorem test_ring_region_at_the_top :
    ringOf [0xFFFDE, 1] 0 = some (some { base := 0xFFFDE, cap := .c8 })
      ∧ ringOf [0xFFFDF, 1] 0 = none ∧ ringOf [0xFFFDF, 0] 0 = some none
      ∧ ringOf [0, 7] 0 = none := by decide

/-- R142, R15: the image of 13 words of no window and no layout passes; a wrong CRC fails CHECK; an
N that does not fit fails LENGTH; FORMAT 2 fails FORMAT. -/
theorem test_shortest_image :
    let body : List Word := [0, 0, 0x00010001, 0x00010001, 0, 0, 0, 0, 0]
    let img := fun (w2 crc : Word) => [0, 0, w2, crc] ++ body
    let st := State.reset.straps
    (match validate st 13 (img 1 (crc32 body)) with
      | .passes m => m.windows == [] && m.holdLimit == 1
      | .fails _ => false) = true
      ∧ validate st 13 (img 1 (crc32 body + 1)) = .fails .check
      ∧ validate st 14 (img 1 (crc32 body)) = .fails .length
      ∧ validate st 13 (img 2 (crc32 body)) = .fails .format := by decide +kernel

/-! ## Single steps -/

/-- What a command leaves, in the state it was given if it stopped. -/
def after (c : Instr) (s : State) : State :=
  match exec c s with
  | .next t => t
  | .fault _ => s
  | .refused _ => s

/-- A step takes the front command and leaves the rest. -/
theorem test_step_takes_the_front :
    (match step { State.reset with pending := [.timebaseTick, .grant] } with
      | .next t => (t.pending, t.timebase)
      | _ => ([], 0)) = ([Instr.grant], 1) := by decide

/-- R21: port A has READ in window 3; the write ends FAULT and one REFUSED notice is queued. -/
theorem test_refused_write :
    let t := after (.plainAccess .a 0x500 .write 15 1) live
    t.pins.a.out = .fault none ∧ t.queue.map (fun e => e.notice.words.head?) = [some 0x00030243#32] := by
  decide

/-- R11: a null read ends READY with zero. -/
theorem test_null_read :
    (after (.nullAccess .b 0x500 .read 0) live).pins.b.out = .ready (some 0) := by decide

/-- R18, R25: the BIG port's write to a PLAIN window of 2-byte elements is mirrored. -/
theorem test_big_plain_write :
    (match ((after (.plainAccess .b 0x501 .write 1 0x11) live).engines.b).estate with
      | .inMemory _ (some t) _ _ => (t.be, t.data)
      | _ => (0, 0)) = (2, 0x1100#32) := by decide

/-- R46: a write that does not complete the record ends READY and its bytes are staged. -/
theorem test_staged_write :
    let t := after (.recordWrite .a 0x103 3 0xAABBCCDD) (atA live .idle [ses0] [])
    (t.engines.a.sessions.map fun x => x.stage) = [[⟨15, 7⟩, ⟨3, 0xCCDD⟩]]
      ∧ t.pins.a.out = .ready none := by decide

/-- R47: the write that completes the record in FULL claims its commit burst. -/
theorem test_closing_write :
    let t := after (.recordWrite .a 0x103 15 9) (atA live .idle [ses0] [])
    (t.engines.a.sessions.map fun x => x.state) = [.closing] ∧ t.engines.a.waiting = true := by
  decide

/-- R40: a fifth session evicts the first and one ABANDONED notice is queued for ring A. -/
theorem test_fifth_session :
    let old := [filler 0 0, filler 1 0, filler 1 1, filler 2 0]
    let t := after (.recordWrite .a 0x102 15 1) (atA live .idle old [])
    (t.engines.a.sessions.map fun x => (x.window, x.record)) = [(1, 0), (1, 1), (2, 0), (0, 1)]
      ∧ (t.queue.map fun e => (e.notice.kind, e.dest)) = [(.abandoned, ⟨true, false⟩)] := by decide

/-- R86, R87: the last word read frees the capture. -/
theorem test_capture_served_and_freed :
    let t := after (.recordRead .a 0x101 15) (atA live .idle [] [cap0])
    t.pins.a.out = .ready (some 12) ∧ t.engines.a.captures = [] := by decide

/-- R80: a word read twice takes a new capture. -/
theorem test_word_read_twice :
    let t := after (.recordRead .a 0x100 15) (atA live .idle [] [cap0])
    t.engines.a.captures = [capFilling] ∧ t.engines.a.waiting = true := by decide

/-- R131, R133: with PROD = CONS = 0 the count 0 is valid and 1 is not. -/
theorem test_consumer_counts :
    (after (.consumerWordWrite .a 0x601 15 0) live).rings.a.watch = some .a
      ∧ (after (.consumerWordWrite .a 0x601 15 1) live).pins.a.out = .fault none
      ∧ ((after (.consumerWordWrite .a 0x601 15 1) live).queue.map fun e => e.notice.kind)
          = [.badConsumer] := by decide

/-- R99: with all three waiting and POINTER at B, B is granted and POINTER goes to NOTICE. -/
theorem test_rotation :
    let e : Engine :=
      { estate := .inMemory (accOf 0x500 .read) (some (takenA (linesOf 0x500 .read 15 0)))
          (.single .ordinary) .waiting, sessions := [], captures := [] }
    let t := after .grant
      { live with engines := ⟨e, e⟩, pointer := .b, noticeClaim := some (.lossReport .a) }
    t.pointer = .notice ∧ (t.granted.map fun g => g.op) = some (.single .b) := by decide

/-- R97: a write changes the lanes enabled, and the read that follows finds them. -/
theorem test_write_then_read :
    let s := { live with mem := [(0x1402, 0x55)] }
    let w : WordAccess := { addr := 0x500, dir := .write, be := 3, data := 0xAABBCCDD }
    ((s.answer w answer).mem.readWord 0x500, (s.answer w answer).mem.length) = (0x0055CCDD#32, 3) := by
  decide

/-- The canonical form drops a byte written to what an unlisted byte reads as. -/
theorem test_write_of_zero_unlists :
    (live.answer { writeW 0x500 with data := 0 } answer).mem = [] := by decide

/-- R71, R110: a commit that expires at its stamp write is TORN with found generation 19. -/
theorem test_torn_commit :
    let e : EState :=
      .inMemory (accOf 0x202 .write) (some (takenA (linesOf 0x202 .write 15 7))) .commit .granted
    let g : Granted := { lastOf (.commit .a true) (writeW 0x200) with done := 4, got := [19] }
    let t := after (.memoryLimitExpires order) (carry (atA live e [ses1 .closing] []) g)
    t.torn = [{ base := 0x200, window := 1 }] ∧ t.pins.a.out = .fault none
      ∧ (t.queue.map fun x => (x.notice.kind, x.notice.detail, x.notice.value))
          = [(.torn, 3, 19)] := by decide

/-- R66, R68: the last write of a commit heals the record and ends READY. -/
theorem test_commit_ends :
    let e : EState :=
      .inMemory (accOf 0x202 .write) (some (takenA (linesOf 0x202 .write 15 7))) .commit .granted
    let t := after (.commitBurstCompletes answer)
      { carry (atA live e [ses1 .closing] []) (lastOf (.commit .a true) (writeW 0x200)) with
        torn := [{ base := 0x200, window := 1 }, { base := 0x204, window := 1 }] }
    t.torn = [{ base := 0x204, window := 1 }] ∧ t.pins.a.out = .ready none
      ∧ t.engines.a.sessions = [] := by decide

/-- R125: after the entry burst PROD is 1, LOST the high half written, the slot and the line set. -/
theorem test_entry_burst_ends :
    let t := after (.entryBurstCompletes answer)
      { carry live (lastOf (.entry .a 3) producerW) with
        queue := [entryOf false]
        rings := ⟨{ live.rings.a with plost := 4, lrep := true }, live.rings.b⟩ }
    (t.rings.a.prod, t.rings.a.lost, t.rings.a.plost, t.rings.a.lrep) = (1, 3, 1, false)
      ∧ t.rings.a.shadow.head? = some (some 1) ∧ t.attn = ⟨true, false⟩
      ∧ t.noticeClaim = some (.head .b) := by decide

/-- R143, R145: a permitted request write begins a load and the other port's claim is held. -/
theorem test_load_begins :
    let e : EState := .inMemory (accOf 0 .write) none (.single (.request 13)) .granted
    let s := carry (atA live e [ses0] [cap0]) (lastOf (.single .a) (writeW 0))
    let t := after (.requestWriteCompletes answer false entryAlone) s
    t.isLoading = true ∧ t.loaderClaim = some (.status 0) ∧ t.pins.a.out = .ready none
      ∧ t.engines.a.sessions = [] ∧ (t.queue.map fun x => x.deferred) = [true] := by decide

/-- R119: the notices of both engines and of the Notice Unit, engine B's first one first. -/
theorem test_interleave :
    interleave [.engine .b, .engine .a, .noticeUnit, .engine .b, .engine .b, .engine .a] [1, 2, 3]
        [4, 5] [6] = [4, 1, 6, 5] ++ [2, 3]
      ∧ interleave [] [1, 2] [4, 5] [6] = [1, 2, 4, 5, 6] := by decide

/-- R136, R170: port B's hold limit reached as LOADING is entered, taken first and its notice after:
B's access ends FAULT, and the notice is deferred before that of A's session. -/
theorem test_expiry_taken_first_is_deferred :
    let e : EState := .inMemory (accOf 0 .write) none (.single (.request 13)) .granted
    let s := (carry (atA live e [ses0] []) (lastOf (.single .a) (writeW 0))).withPort .b
      { estate := .inMemory (accOf 0x500 .read) (some (takenA (linesOf 0x500 .read 15 0)))
          (.single .ordinary) .waiting, sessions := [], captures := [] } Pins.quiet
    let t := after (.requestWriteCompletes answer false
      { events := [.hold .b], turns := [.engine .b] }) s
    t.pins.b.out = .fault (some 0)
      ∧ (t.queue.map fun x => (x.notice.kind, x.deferred))
          = [(.holdTimeout, true), (.abandoned, true)] := by decide

/-- R133, R136: port B writes an invalid count, 7, as LOADING is entered and is classified first: FAULT,
and BAD_CONSUMER is deferred, before the notice of A's session or after it. -/
theorem test_access_taken_first_is_deferred :
    let e : EState := .inMemory (accOf 0 .write) none (.single (.request 13)) .granted
    let s := carry (atA live e [ses0] []) (lastOf (.single .a) (writeW 0))
    let t := fun turns => after (.requestWriteCompletes answer false
      { events := [.access .b 0x601 .write 15 0x07000000], turns := turns }) s
    let kinds := fun t : State => t.queue.map fun x => (x.notice.kind, x.deferred)
    (t []).pins.b.out = .fault none
      ∧ kinds (t []) = [(.abandoned, true), (.badConsumer, true)]
      ∧ kinds (t [.noticeUnit]) = [(.badConsumer, true), (.abandoned, true)] := by decide

/-- R100: a stale commit of port A ends; port B's claim is granted before the Notice Unit's is made, or
after. -/
theorem test_stale_end_or_claim_first :
    let e : EState := .inMemory (accOf 0x202 .write) (some (takenA (linesOf 0x202 .write 15 7)))
      .commit .granted
    let b : EState := .inMemory (accOf 0x500 .read) (some (takenA (linesOf 0x500 .read 15 0)))
      (.single .ordinary) .waiting
    let s := (carry { atA live e [ses1 .closing] [] with mem := [(0x800, 6)] }
      (lastOf (.commit .a false) (readW 0x200))).withPort .b
        { estate := b, sessions := [], captures := [] } Pins.quiet
    let t := fun first => after (.commitStampReadCompletes { answer with grantFirst := first }) s
    (t true).granted.map (fun g => g.op) = some (.single .b) ∧ (t false).granted = none
      ∧ (t true).noticeClaim = some (.head .a) ∧ (t false).noticeClaim = some (.head .a) := by decide

/-- R157: DONE installs the candidate with SEQ 1; R159: LOAD_DONE goes to both rings. -/
theorem test_load_done :
    let t := after (.doneWriteCompletes answer order)
      (carry (loading (.installing map)) (lastOf .status statusW))
    t.part = .active map ∧ t.seq = 1
      ∧ (t.queue.map fun x => (x.notice.kind, x.notice.detail, x.dest))
          = [(.loadDone, 4, ⟨true, true⟩)] := by decide

/-- R161, R168: at the hold limit of 8 the held access ends FAULT. -/
theorem test_hold_limit :
    let s := atA (loading .draining) (.held (accOf 0x500 .read)) [] []
    (after (.holdLimitExpires .a) s).pins.a.out = .fault (some 0)
      ∧ after (.holdLimitExpires .a) { s with timebase := 19 } = { s with timebase := 19 } := by
  decide

/-- R172: 8 reference periods a microsecond by CKSEL 0, 32 by CKSEL 2; the Timebase wraps. -/
theorem test_tick :
    (after .timebaseTick { live with timebase := 0xFFFFFFFF }).timebase = 0
      ∧ (after .timebaseTick live).refPeriods = 8
      ∧ (after .timebaseTick { live with straps := ⟨0, .little, 2⟩ }).refPeriods = 32 := by decide

/-- spec/01 "Example Map", the windows and rings. -/
def exampleMap : RecordMap :=
  { map with
    windows :=
      [{ base := 0x20000
         kind := .record
          { reclen := 8, reccnt := 16, mode := .full, policy := .last, stamp := true, check := true,
            layout := 0 }
         rights := ⟨.readWrite, .read⟩ },
       { base := 0x30000, kind := .plain 1024 .two, rights := ⟨.read, .readWrite⟩ },
       { base := 0x20100
         kind := .record
          { reclen := 5, reccnt := 3, mode := .close, policy := .last, stamp := true, check := false,
            layout := 1 }
         rights := ⟨.readWrite, .readWrite⟩ }]
    settings :=
      ⟨{ order := .little, unmapped := .refuse, thresh := 1, loadRight := false },
        { order := .big, unmapped := .pass, thresh := 1, loadRight := true }⟩
    rings := ⟨some { base := 0x10100, cap := .c16 }, some { base := 0x10200, cap := .c8 }⟩ }

/-- spec/01 "Example Map", the table of accesses: their classes. -/
theorem test_example_map_classes :
    let c := classify exampleMap 0x10000
    c 0x10001 = .image .status ∧ c 0x10101 = .ring .a .consumer ∧ c 0x10104 = .ring .a .entry
      ∧ c 0x10201 = .ring .b .consumer ∧ c 0x10142 = .unmapped
      ∧ c 0x20013 = .record 0 2 3 0x20010 (.data false)
      ∧ c 0x20017 = .record 0 2 7 0x20010 .check ∧ c 0x20018 = .record 0 3 0 0x20018 .stamp
      ∧ c 0x2010E = .record 2 2 4 0x2010A (.data true) ∧ c 0x2010F = .unmapped
      ∧ c 0x303FF = .plain 1 := by decide

/-- spec/01 "Example Map", the table of accesses: the refusals. -/
theorem test_example_map_refusals :
    let f := fun p addr dir =>
      refusalOf exampleMap .little p { addr := addr, dir := dir, be := 15, data := 0 }
        (classify exampleMap 0x10000 addr)
    f .a 0x10104 .write = some .ringWrite ∧ f .a 0x10142 .read = some .unmapped
      ∧ f .b 0x10142 .write = none ∧ f .b 0x20013 .write = some .noWrite
      ∧ f .b 0x20017 .read = none ∧ f .a 0x20018 .write = some .stampWord
      ∧ f .b 0x20018 .write = some .noWrite ∧ f .a 0x303FF .write = some .noWrite
      ∧ f .b 0x303FF .write = none ∧ f .b 0x10001 .write = none := by decide

/-! ## Witnesses: for each statement with hypotheses, states and operands that meet them -/

theorem witness_CommandsOutOfPlaceChangeNothing :
    State.reset.pending = [] ∧ State.reset.granted = none := ⟨rfl, rfl⟩

/-- A write access carried while memory is in canonical form, of a single write and of a commit. -/
theorem witness_ResetEmptiesThePart :
    let s := fun op => carry { live with mem := [(0x1400, 1)] } (lastOf op (writeW 0x500))
    (s (.single .b)).mem.wf = true
      ∧ (s (.commit .b true)).granted = some (lastOf (.commit .b true) (writeW 0x500))
      ∧ (lastOf (.commit .b true) (writeW 0x500)).todo = writeW 0x500 :: [] := by
  decide

/-- RESET asserted, with one strobe asserted and the other not, and with both asserted. -/
theorem witness_ReleaseOfResetTakesTheStrobes :
    let s := { State.reset with
      resetAsserted := true
      pins := ⟨{ strobe := some (linesOf 0 .write 15 0xFFF2000D), out := .quiet }, Pins.quiet⟩ }
    let both := { s with pins := ⟨s.pins.a, s.pins.a⟩ }
    s.resetAsserted = true ∧ s.part = .bare
      ∧ ¬ (s.pins.a.strobe.isSome = true ∧ s.pins.b.strobe.isSome = true)
      ∧ both.resetAsserted = true ∧ both.part = .bare
      ∧ both.pins.a.strobe.isSome = true ∧ both.pins.b.strobe.isSome = true := by decide

/-- An ended access, RESET asserted, no ending; the last Timebase value; no operation, and one that
waits for M_ACK. -/
theorem witness_LinesAndTimebase :
    ((live.endedAtOnce .a (linesOf 0 .read 0 0) (.ready none)).pins.get .a).out ≠ .quiet
      ∧ (live.pins.get .a).out = .quiet ∧ live.resetAsserted = false
      ∧ (after .reset live).resetAsserted = true
      ∧ { live with timebase := 0xFFFFFFFF }.resetAsserted = false
      ∧ (∀ g w rest, ¬ live.OnBus g w rest) ∧ live.granted = none
      ∧ (carry live { lastOf .status statusW with presented := false }).granted
          = some { lastOf .status statusW with presented := false } := by
  refine ⟨by decide, by decide, rfl, rfl, rfl, fun g w rest h => ?_, rfl, rfl⟩
  have h1 := h.1
  cases h1

theorem witness_BareCarriesRawAndLoadingHolds :
    (accessOf (.accessInBare .a 0 .write 15 1) = some (.a, linesOf 0 .write 15 1)
        ∧ State.reset.Accepts .a ∧ State.reset.part = .bare ∧ State.reset.NoticeSettled)
      ∧ accessOf (.heldAccess .b 0 .read 0 0) = some (.b, linesOf 0 .read 0 0)
      ∧ (loading .draining).Accepts .b ∧ (loading .draining).part = .loading (loadOf .draining)
      ∧ (loading .draining).NoticeSettled :=
  ⟨⟨rfl, ⟨rfl, rfl, rfl⟩, rfl, .inr (.inr rfl)⟩, rfl, ⟨rfl, rfl, rfl⟩, rfl, .inr (.inr rfl)⟩

/-- The held access is one microsecond short of the hold limit. -/
theorem witness_NullAccessEndsAtOnce :
    let l := linesOf 0x500 .read 0 0
    let acc : Access := { addr := 0x500, dir := .read, be := 0, data := 0, arrived := 13 }
    let bare : State := { live with part := .bare, timebase := 5012 }
    (accessOf (.nullAccess .a 0x500 .read 0) = some (.a, l) ∧ live.Accepts .a
        ∧ live.part = .active map ∧ l.be = 0 ∧ live.NoticeSettled)
      ∧ ((loading .starting).Accepts .a ∧ (loading .starting).NoticeSettled)
      ∧ ((atA live (.held acc) [] []).engines.get .a).estate = .held acc ∧ acc.be = 0
      ∧ age live.timebase acc.arrived < (atA live (.held acc) [] []).holdLimit
      ∧ (atA bare (.held acc) [] []).part = .bare
      ∧ age bare.timebase acc.arrived < (atA bare (.held acc) [] []).holdLimit :=
  ⟨⟨rfl, live_accepts _, rfl, rfl, live_settled⟩, ⟨⟨rfl, rfl, rfl⟩, .inr (.inr rfl)⟩, rfl, rfl,
    by decide, rfl, by decide⟩

/-- One access refused for each of the seven reasons. -/
theorem witness_RefusedAccessEndsFault :
    let why := fun p l => refusalOf map live.straps.imgOrd p l (live.classOf map l)
    (accessOf (.plainAccess .a 0x500 .write 15 1) = some (.a, linesOf 0x500 .write 15 1)
        ∧ live.Accepts .a ∧ live.part = .active map ∧ (linesOf 0x500 .write 15 1).be ≠ 0)
      ∧ why .a (linesOf 0x500 .write 15 1) = some .noWrite
      ∧ why .b (linesOf 0x300 .read 15 0) = some .noRead
      ∧ why .b (linesOf 0x508 .read 15 0) = some .unmapped
      ∧ why .a (linesOf 0x200 .write 15 0) = some .stampWord
      ∧ why .a (linesOf 0x203 .write 15 0) = some .checkWord
      ∧ why .a (linesOf 0x600 .write 15 0) = some .ringWrite
      ∧ why .b (linesOf 0 .write 15 0xFFF2000D) = some .loadRight :=
  ⟨⟨rfl, live_accepts _, rfl, by decide⟩, by decide, by decide, by decide, by decide, by decide,
    by decide, by decide⟩

theorem witness_AdmittedAccessClaimsOneOperation :
    (accessOf (.plainAccess .b 0x507 .write 1 1) = some (.b, linesOf 0x507 .write 1 1)
        ∧ live.Admits map .b (linesOf 0x507 .write 1 1)
        ∧ live.classOf map (linesOf 0x507 .write 1 1) = .plain 3
        ∧ carriedSingly live.straps.imgOrd (linesOf 0x507 .write 1 1)
            (live.classOf map (linesOf 0x507 .write 1 1))
            (live.takenOf map .b (linesOf 0x507 .write 1 1)).be
        ∧ live.NoticeSettled)
      ∧ accessOf (.requestWordWrite .a 0 15 0xFFF2000D) = some (.a, linesOf 0 .write 15 0xFFF2000D)
      ∧ live.Accepts .a ∧ live.part = .active map
      ∧ (0 : WAddr) = live.straps.imageBase ∧ (map.settings.get .a).loadRight = true
      ∧ requestLength live.straps.imgOrd 15 0xFFF2000D = some 13 := by
  refine ⟨⟨rfl, ⟨live_accepts _, rfl, by decide, by decide⟩, by decide, ?_, live_settled⟩, rfl,
    live_accepts _, rfl, by decide, rfl, by decide⟩
  have h : live.classOf map (linesOf 0x507 .write 1 1) = .plain 3 := by decide
  rw [h]
  exact trivial

/-- Each class at the ends of its extent. -/
theorem witness_ClassificationFollowsTheTable :
    (map.rings.get .a = some ringA ∧ ringA.base.toNat ≤ (0x621 : WAddr).toNat
        ∧ (0x621 : WAddr).toNat < ringA.base.toNat + ringA.cap.regionWords
        ∧ (0x621 : WAddr) ≠ 0 ∧ (0x621 : WAddr) ≠ 0 + 1)
      ∧ (map.windows[0]? = some window0 ∧ window0.kind = .record fullSpec
        ∧ window0.base.toNat ≤ (0x103 : WAddr).toNat
        ∧ (0x103 : WAddr).toNat < window0.base.toNat + window0.extent)
      ∧ (map.windows[3]? = some window3 ∧ window3.kind = .plain 8 .two
        ∧ window3.base.toNat ≤ (0x507 : WAddr).toNat
        ∧ (0x507 : WAddr).toNat < window3.base.toNat + window3.extent)
      ∧ (∀ q pl, map.rings.get q = some pl → ¬ (pl.base.toNat ≤ (0x508 : WAddr).toNat
        ∧ (0x508 : WAddr).toNat < pl.base.toNat + pl.cap.regionWords))
      ∧ ∀ w ∈ map.windows, ¬ (w.base.toNat ≤ (0x508 : WAddr).toNat
        ∧ (0x508 : WAddr).toNat < w.base.toNat + w.extent) := by
  refine ⟨⟨rfl, by decide, by decide, by decide, by decide⟩, ⟨rfl, rfl, by decide, by decide⟩,
    ⟨rfl, rfl, by decide, by decide⟩, ?_, ?_⟩
  · intro q pl h
    cases q <;> cases h <;> decide
  · decide

/-- A LITTLE port, and each class at a BIG one. -/
theorem witness_ConversionFollowsTheClass :
    let t := fun a => (live.takenOf map .b (linesOf a .read 15 0)).cls
    (map.settings.get .a).order = .little ∧ (map.settings.get .b).order = .big
      ∧ t 0x600 = .ring .a .producer ∧ t 0x204 = .record 1 1 0 0x204 .stamp
      ∧ t 0x203 = .record 1 0 3 0x200 .check ∧ t 0x302 = .record 2 0 2 0x300 (.data true)
      ∧ map.windows[2]? = some window2 ∧ window2.kind = .record closeSpec
      ∧ map.layouts[closeSpec.layout]? = some layout ∧ layout.patterns[2 - 1]? = some .p22
      ∧ t 0x507 = .plain 3 ∧ map.windows[3]? = some window3 ∧ window3.kind = .plain 8 .two
      ∧ t 0x508 = .unmapped ∧ t 1 = .image .status :=
  ⟨rfl, rfl, by decide, by decide, by decide, by decide, rfl, rfl, rfl, rfl, by decide, rfl, rfl,
    by decide, by decide⟩

/-- The second element of 1+2+1, at its first and last lane. -/
theorem witness_MirroringMovesEachLane :
    Pattern.p121.widths = [1] ++ 2 :: [1] ∧ [1].sum ≤ 1 ∧ 1 < [1].sum + 2 ∧ 2 < [1].sum + 2 := by
  decide

/-- The last word of STAGE; a FULL and a CLOSE window. -/
theorem witness_StagingAndTheClosingCondition :
    ses0.stage[1]? = some ⟨0, 0⟩
      ∧ (ses1 .open).stage.length = guardedSpec.reclen ∧ guardedSpec.mode = .full
      ∧ ses2.stage.length = closeSpec.reclen ∧ closeSpec.mode = .close
      ∧ (1 : Nat) ≤ 4 - 1 - 1 ∧ 4 - 1 - 1 < (4 : Nat) ∧ (1 : Nat) ≤ 3 - 1 - 0
      ∧ 3 - 1 - 0 < (3 : Nat) := by decide

/-- A write that closes the record, and one that does not. -/
theorem witness_WriteIsStagedInItsSession :
    let s := atA live .idle [ses0] []
    let l := fun be => linesOf 0x103 .write be 9
    (accessOf (.recordWrite .a 0x103 15 9) = some (.a, l 15) ∧ s.Admits map .a (l 15)
        ∧ s.classOf map (l 15) = .record 0 1 1 0x102 (.data true)
        ∧ (s.engines.get .a).sessionOf 0 1 = some ses0 ∧ s.NoticeSettled)
      ∧ s.Admits map .a (l 3)
      ∧ (map.spec 0).closes (ses0.place 1 15 9).stage = true
      ∧ (map.spec 0).closes (ses0.place 1 3 9).stage = false :=
  ⟨⟨rfl, ⟨⟨rfl, rfl, rfl⟩, rfl, by decide, by decide⟩, by decide, rfl, .inr (.inr rfl)⟩,
    ⟨⟨rfl, rfl, rfl⟩, rfl, by decide, by decide⟩, by decide, by decide⟩

/-- A table of three sessions and one of four; a LAST and a GUARDED window. -/
theorem witness_WriteOpensASession :
    let three := [filler 0 0, filler 1 1, filler 2 0]
    let s := fun t => atA live .idle t [cap0]
    let l := linesOf 0x102 .write 15 9
    let l' := linesOf 0x201 .write 15 9
    let two := { atA live (.inMemory (l.latch 20) none .commit .waiting) [] [] with
      queue := [entryOf false] }
    ((accessOf (.recordWrite .a 0x102 15 9) = some (.a, l) ∧ (s three).Admits map .a l
        ∧ (s three).classOf map l = .record 0 1 0 0x102 (.data false)
        ∧ ((s three).engines.get .a).sessionOf 0 1 = none ∧ (map.spec 0).policy = .last)
      ∧ ((s (three ++ [filler 1 0])).Admits map .a l
        ∧ ((s (three ++ [filler 1 0])).engines.get .a).sessionOf 0 1 = none)
      ∧ accessOf (.recordWrite .a 0x201 15 9) = some (.a, l') ∧ (s three).Admits map .a l'
      ∧ (s three).classOf map l' = .record 1 0 1 0x200 (.data false)
      ∧ ((s three).engines.get .a).sessionOf 1 0 = none ∧ (map.spec 1).policy = .guarded)
      ∧ (two.granted = none ∧ (two.engines.get .a).waiting = true ∧ two.noticeClaim = none
        ∧ two.noticeChoice ≠ none) ∧ live.noticeChoice = none :=
  ⟨⟨⟨rfl, ⟨⟨rfl, rfl, rfl⟩, rfl, by decide, by decide⟩, by decide, by decide, rfl⟩,
    ⟨⟨⟨rfl, rfl, rfl⟩, rfl, by decide, by decide⟩, by decide⟩, rfl,
    ⟨⟨rfl, rfl, rfl⟩, rfl, by decide, by decide⟩, by decide, by decide, rfl⟩, by decide, by decide⟩

/-- The staged word, and the one that is not staged. -/
theorem witness_OwnReadIsServedFromItsSession :
    let s := atA live .idle [ses0] []
    let l := fun a => linesOf a .read 15 0
    (accessOf (.recordRead .a 0x102 15) = some (.a, l 0x102) ∧ s.Admits map .a (l 0x102)
        ∧ s.classOf map (l 0x102) = .record 0 1 0 0x102 (.data false)
        ∧ (s.engines.get .a).sessionOf 0 1 = some ses0 ∧ s.NoticeSettled
        ∧ ∀ k < 4, enabled (s.takenOf map .a (l 0x102)).be k = true → enabled (15 : Lanes) k = true)
      ∧ s.Admits map .a (l 0x103) ∧ s.classOf map (l 0x103) = .record 0 1 1 0x102 (.data true)
      ∧ ∃ k < 4, enabled (s.takenOf map .a (l 0x103)).be k = true ∧ enabled (0 : Lanes) k = false :=
  ⟨⟨rfl, ⟨⟨rfl, rfl, rfl⟩, rfl, by decide, by decide⟩, by decide, rfl, .inr (.inr rfl), by decide⟩,
    ⟨⟨rfl, rfl, rfl⟩, rfl, by decide, by decide⟩, by decide, 0, by decide, by decide, by decide⟩

/-- An age of exactly the limit, one below it, and the limit 0. -/
theorem witness_SessionAndCaptureLimits :
    let s := atA live .idle [ses0] [cap0]
    let none_ : State :=
      { s with part := .active { map with sessionLimit := 0, captureLimit := 0 } }
    (s.engines.get .a).sessionOf 0 1 = some ses0 ∧ ses0.opened = some 16 ∧ ses0.state = .open
      ∧ s.sessionLimit ≠ 0 ∧ s.sessionLimit ≤ age s.timebase 16
      ∧ age (19 : Time) 16 < s.sessionLimit ∧ none_.sessionLimit = 0
      ∧ (s.engines.get .a).captureOf 0 0 = some cap0 ∧ cap0.live = some ⟨false, [11, 12], 16⟩
      ∧ s.captureLimit ≠ 0 ∧ s.captureLimit ≤ age s.timebase 16
      ∧ age (19 : Time) 16 < s.captureLimit ∧ none_.captureLimit = 0 := by decide

/-- A word not yet read, a word already read, a record with no capture. -/
theorem witness_ReadIsServedOrTakesACapture :
    let s := fun cs => atA live .idle [] cs
    let l := fun a => linesOf a .read 15 0
    (accessOf (.recordRead .a 0x101 15) = some (.a, l 0x101) ∧ (s [cap0]).Admits map .a (l 0x101)
        ∧ (s [cap0]).classOf map (l 0x101) = .record 0 0 1 0x100 (.data true)
        ∧ ((s [cap0]).engines.get .a).sessionOf 0 0 = none
        ∧ ((s [cap0]).engines.get .a).captureOf 0 0 = some cap0
        ∧ cap0.live = some ⟨false, [11, 12], 16⟩ ∧ cap0.readMask.getLsbD 1 = false
        ∧ (s [cap0]).NoticeSettled)
      ∧ ((s [cap0]).Admits map .a (l 0x100)
        ∧ (s [cap0]).classOf map (l 0x100) = .record 0 0 0 0x100 (.data false)
        ∧ ∀ cap, ((s [cap0]).engines.get .a).captureOf 0 0 = some cap →
            cap.live = none ∨ cap.readMask.getLsbD 0 = true)
      ∧ (s []).Admits map .a (l 0x100)
      ∧ ∀ cap, ((s []).engines.get .a).captureOf 0 0 = some cap →
          cap.live = none ∨ cap.readMask.getLsbD 0 = true := by
  refine ⟨⟨rfl, ⟨⟨rfl, rfl, rfl⟩, rfl, by decide, by decide⟩, by decide, rfl, rfl, rfl, by decide,
    .inr (.inr rfl)⟩, ⟨⟨⟨rfl, rfl, rfl⟩, rfl, by decide, by decide⟩, by decide, fun cap h => ?_⟩,
    ⟨⟨rfl, rfl, rfl⟩, rfl, by decide, by decide⟩, fun cap h => ?_⟩
  · cases h
    exact .inr (by decide)
  · cases h

/-! ### The arbiter -/

/-- Port A's access in flight, its claim waiting or granted. -/
def flight (l : Lines) (job : Job) (c : ClaimState) : EState :=
  .inMemory (l.latch 12) (some (takenA l)) job c

theorem witness_GrantFollowsTheRotation :
    let e := flight (linesOf 0x500 .read 15 0) (.single .ordinary) .waiting
    (carry live (lastOf .status statusW)).granted.isSome = true
      ∧ (carry live (lastOf .status statusW)).NoticeSettled
      ∧ (live.loaderClaim = none ∧ ∀ r, live.waits r = false)
      ∧ ({ loading .starting with loaderClaim := some (.status 0) }.granted = none)
      ∧ (atA live e [] []).PicksNext .a
      ∧ { atA live e [] [] with pointer := .b }.PicksNext .a
      ∧ { live with noticeClaim := some (.lossReport .a) }.PicksNext .notice := by
  refine ⟨rfl, .inr (.inr rfl), ⟨rfl, fun r => by cases r <;> rfl⟩, rfl,
    ⟨rfl, rfl, rfl, .inl rfl⟩, ⟨rfl, rfl, rfl, .inr (.inr ⟨rfl, rfl, rfl⟩)⟩,
    ⟨rfl, rfl, rfl, .inr (.inr ⟨rfl, rfl, rfl⟩)⟩⟩

/-- A single read, an own read, a stamp read and a capture burst; a raw access of BARE. -/
theorem witness_GrantStartsAPortOperation :
    let s := fun l job => atA live (flight l job .waiting) [] []
    let raw := (linesOf 0 .read 15 0).latch 12
    let plain := linesOf 0x500 .read 15 0
    let data := linesOf 0x202 .write 15 7
    ((s plain (.single .ordinary)).PicksNext (rotorOf .a)
        ∧ (s plain (.single .ordinary)).NoticeSettled)
      ∧ (s (linesOf 0x103 .read 15 0) (.single (.ownRead ⟨3, 7⟩))).PicksNext (rotorOf .a)
      ∧ ((s data .stampRead).PicksNext (rotorOf .a) ∧ IsRecord (takenA data).cls 1 0 2 0x200)
      ∧ ((s (linesOf 0x103 .read 15 0) .capture).PicksNext (rotorOf .a)
        ∧ IsRecord (takenA (linesOf 0x103 .read 15 0)).cls 0 1 1 0x102)
      ∧ (atA State.reset (.inMemory raw none (.single .ordinary) .waiting) [] []).PicksNext
          (rotorOf .a)
      ∧ (atA State.reset (.inMemory raw none (.single .ordinary) .waiting) [] []).NoticeSettled :=
  ⟨⟨⟨rfl, rfl, rfl, .inl rfl⟩, .inr (.inr rfl)⟩, ⟨rfl, rfl, rfl, .inl rfl⟩,
    ⟨⟨rfl, rfl, rfl, .inl rfl⟩, ⟨.data true, by decide⟩⟩,
    ⟨⟨rfl, rfl, rfl, .inl rfl⟩, ⟨.data true, by decide⟩⟩, ⟨rfl, rfl, rfl, .inl rfl⟩,
    .inr (.inr rfl)⟩

/-- A commit with reads, and one of a window without STAMP and in FULL, with none. -/
theorem witness_GrantStartsACommitBurst :
    let l2 := linesOf 0x302 .write 15 7
    let l0 := linesOf 0x103 .write 15 7
    let s := fun l ses => atA live (flight l .commit .waiting) [ses] []
    ((s l2 ses2).PicksNext (rotorOf .a) ∧ IsRecord (takenA l2).cls 2 0 2 0x300
        ∧ ((s l2 ses2).engines.get .a).sessionOf 2 0 = some ses2 ∧ (s l2 ses2).NoticeSettled
        ∧ commitReads ((s l2 ses2).spec 2) ses2 = [readW 0x300, readW 0x301])
      ∧ (s l0 ses0).PicksNext (rotorOf .a) ∧ IsRecord (takenA l0).cls 0 1 1 0x102
      ∧ ((s l0 ses0).engines.get .a).sessionOf 0 1 = some ses0
      ∧ commitReads ((s l0 ses0).spec 0) ses0 = [] :=
  ⟨⟨⟨rfl, rfl, rfl, .inl rfl⟩, ⟨.data true, by decide⟩, rfl, .inr (.inr rfl), by decide⟩,
    ⟨rfl, rfl, rfl, .inl rfl⟩, ⟨.data true, by decide⟩, rfl, by decide⟩

/-- With STAMP and CHECK, with STAMP alone in CLOSE; a staged word and a merged one. -/
theorem witness_CommitBurstWords :
    ((ses1 .closing).stage.length = guardedSpec.reclen ∧ 1 ≤ guardedSpec.dataWords
        ∧ guardedSpec.reclen = guardedSpec.dataWords + 1 + 1)
      ∧ (ses2.stage.length = closeSpec.reclen ∧ 1 ≤ closeSpec.dataWords
        ∧ closeSpec.reclen = closeSpec.dataWords + 1 + 0)
      ∧ ses2.stage[1]? = some ⟨3, 0x0102⟩ ∧ enabled (3 : Lanes) 2 = false
      ∧ [(9 : Word)][((ses2.stage.drop 1).take 0).length]? = some 9
      ∧ guardedSpec.check = true := by decide

/-- The last generation, and the first. -/
theorem witness_StampWordOfACommit :
    guardedSpec.stamp = true ∧ [(0x0001FFFF : Word)].head? = some 0x0001FFFF
      ∧ [(0 : Word)].head? = some 0 := by decide

/-- One entry of room, no room, and a loss report. -/
theorem witness_GrantStartsANoticeBurst :
    let s := fun prod claim =>
      { live with
        noticeClaim := some claim
        queue := [entryOf false]
        rings := ⟨{ live.rings.a with prod := prod }, live.rings.b⟩ }
    ((s 7 (.head .a)).PicksNext .notice ∧ (s 7 (.head .a)).ringPlace .a = some ringA
        ∧ (s 7 (.head .a)).noticeClaim = some (.head .a) ∧ (s 7 (.head .a)).queue = [entryOf false]
        ∧ ((7 : Count) - 0).toNat < ringA.cap.entries)
      ∧ ((s 8 (.head .a)).PicksNext .notice ∧ ringA.cap.entries ≤ ((8 : Count) - 0).toNat)
      ∧ (s 8 (.lossReport .a)).PicksNext .notice
      ∧ (s 8 (.lossReport .a)).noticeClaim = some (.lossReport .a) :=
  ⟨⟨⟨rfl, rfl, rfl, .inr (.inr ⟨rfl, rfl, rfl⟩)⟩, rfl, rfl, rfl, by decide⟩,
    ⟨⟨rfl, rfl, rfl, .inr (.inr ⟨rfl, rfl, rfl⟩)⟩, by decide⟩,
    ⟨rfl, rfl, rfl, .inr (.inr ⟨rfl, rfl, rfl⟩)⟩, rfl⟩

theorem witness_GrantStartsALoaderOperation :
    let s := fun ph c => { loading ph with loaderClaim := some c }
    ((s .starting (.status 0)).granted = none ∧ (s .starting (.status 0)).NoticeSettled)
      ∧ ((s .reading .imageRead).part = .loading (loadOf .reading)
        ∧ (s .reading .imageRead).NoticeSettled)
      ∧ (s (.installing map) (.ringHeader .b)).part = .loading (loadOf (.installing map))
      ∧ (s (.installing map) (.ringHeader .b)).NoticeSettled
      ∧ map.rings.get .b = some ringB :=
  ⟨⟨rfl, .inr (.inr rfl)⟩, ⟨rfl, .inr (.inr rfl)⟩, rfl, .inr (.inr rfl), rfl⟩

/-- Two words of a capture burst; the first merge read of a commit, and its last. -/
theorem witness_WordAccessesFollowOneAnother :
    let cap : Granted := { lastOf (.capture .a) (readW 0x100) with todo := [readW 0x100, readW 0x101] }
    let l := linesOf 0x302 .write 15 7
    let s := atA live (flight l .commit .granted) [ses2] []
    let com : Granted := { lastOf (.commit .a false) (readW 0x301) with done := 1, got := [4] }
    ((carry live cap).OnBus cap (readW 0x100) [readW 0x101] ∧ ∀ p, cap.op ≠ .commit p false)
      ∧ ((carry s com).OnBus com (readW 0x301) []
        ∧ (carry s com).Carries .a (l.latch 12) (some (takenA l)) .commit
        ∧ IsRecord (takenA l).cls 2 0 2 0x300
        ∧ ((carry s com).engines.get .a).sessionOf 2 0 = some ses2 ∧ com.done ≠ 0)
      ∧ (carry s { com with todo := [readW 0x301, readW 0x302] }).OnBus
          { com with todo := [readW 0x301, readW 0x302] } (readW 0x301) [readW 0x302] :=
  ⟨⟨⟨rfl, rfl, rfl⟩, fun p => by cases p <;> decide⟩,
    ⟨⟨rfl, rfl, rfl⟩, rfl, ⟨.data true, by decide⟩, rfl, by decide⟩, rfl, rfl, rfl⟩

/-- The last word of the address space, in canonical form; a commit burst carried; the producer word of
an entry burst; a watched write. -/
theorem witness_MemoryBusChangesEnabledLanesAlone :
    { live with mem := [(0x3FFFFF, 1)] }.mem.wf = true
      ∧ (carry live (lastOf (.commit .a true) (writeW 0xFFFFF))).granted
          = some (lastOf (.commit .a true) (writeW 0xFFFFF))
      ∧ (writeW 0xFFFFF).dir = .write
      ∧ (readW 0xFFFFF).dir = .read ∧ answer.late = none ∧ enabled (15 : Lanes) 3 = true
      ∧ (lastOf (.entry .a 0) producerW).todo = [producerW]
      ∧ (let l := linesOf 0x601 .write 15 0
         let s := carry (atA live (flight l (.single (.watched .a 0)) .granted) [] [])
           (lastOf (.single .a) (writeW 0x601))
         s.granted = some (lastOf (.single .a) (writeW 0x601))
           ∧ s.Carries .a (l.latch 12) (some (takenA l)) (.single (.watched .a 0))) := by
  refine ⟨by decide, by decide, by decide, by decide, by decide, by decide, by decide, rfl, rfl⟩

/-! ### Completions for a port -/

theorem witness_SingleOperationEndsReady :
    let l := linesOf 0x103 .read 15 0
    let g := lastOf (.single .a) (readW 0x103)
    let s := fun t job => carry (atA live (.inMemory (l.latch 12) t job .granted) [] []) g
    ((s none (.single .ordinary)).LastOnBus g (readW 0x103)
        ∧ (s none (.single .ordinary)).Carries .a (l.latch 12) none (.single .ordinary))
      ∧ (s (some (takenA l)) (.single .ordinary)).Carries .a (l.latch 12) (some (takenA l))
          (.single .ordinary)
      ∧ (s (some (takenA l)) (.single (.ownRead ⟨1, 7⟩))).Carries .a (l.latch 12) (some (takenA l))
          (.single (.ownRead ⟨1, 7⟩)) :=
  ⟨⟨⟨rfl, rfl, rfl⟩, rfl⟩, rfl, rfl⟩

/-- Two notices unconsumed: the count 2 is valid, 3 is not, and neither is 2 while WATCH is held. -/
theorem witness_WatchedWriteIsTested :
    let s := fun w =>
      { live with rings := ⟨{ live.rings.a with prod := 2, watch := w }, live.rings.b⟩ }
    let l := fun n => linesOf 0x601 .write 15 n
    let valid := fun (s : State) (n : Count) =>
      (n - (s.rings.get .a).cons).toNat ≤ ((s.rings.get .a).prod - (s.rings.get .a).cons).toNat
        ∧ (s.rings.get .a).watch = none
    (accessOf (.consumerWordWrite .a 0x601 15 2) = some (.a, l 2)
        ∧ (s none).Admits map .a (l 2) ∧ (s none).classOf map (l 2) = .ring .a .consumer
        ∧ enabled ((s none).takenOf map .a (l 2)).be 0 = true
        ∧ enabled ((s none).takenOf map .a (l 2)).be 1 = true ∧ valid (s none) 2
        ∧ (s none).NoticeSettled)
      ∧ ((s none).Admits map .a (l 3) ∧ ¬ valid (s none) 3)
      ∧ (s (some .b)).Admits map .a (l 2) ∧ ¬ valid (s (some .b)) 2 :=
  ⟨⟨rfl, ⟨⟨rfl, rfl, rfl⟩, rfl, by decide, by decide⟩, by decide, by decide, by decide, by decide,
    .inr (.inr rfl)⟩, ⟨⟨⟨rfl, rfl, rfl⟩, rfl, by decide, by decide⟩, by decide⟩,
    ⟨⟨rfl, rfl, rfl⟩, rfl, by decide, by decide⟩, by decide⟩

theorem witness_ConsumerCountIsTaken :
    let l := linesOf 0x601 .write 15 2
    let g := lastOf (.single .a) (writeW 0x601)
    let s := carry (atA live (flight l (.single (.watched .a 2)) .granted) [] []) g
    s.LastOnBus g (writeW 0x601) ∧ g.op = .single .a
      ∧ s.Carries .a (l.latch 12) (some (takenA l)) (.single (.watched .a 2))
      ∧ s.map = some map ∧ map.rings.get .a = some ringA :=
  ⟨⟨rfl, rfl, rfl⟩, rfl, rfl, rfl, rfl⟩

/-- Outside LOADING and in it; a write that closes the record, and one that does not. -/
theorem witness_StampReadOpensTheSession :
    let l := linesOf 0x202 .write 15 7
    let g := lastOf (.stampRead .a) (readW 0x200)
    let s := fun s : State => carry (atA s (flight l .stampRead .granted) [ses1 .opening] []) g
    ((s live).LastOnBus g (readW 0x200) ∧ g.op = .stampRead .a
        ∧ (s live).Carries .a (l.latch 12) (some (takenA l)) .stampRead
        ∧ IsRecord (takenA l).cls 1 0 2 0x200
        ∧ ((s live).engines.get .a).sessionOf 1 0 = some (ses1 .opening)
        ∧ (l.latch 12).dir = .write ∧ (s live).isLoading = false ∧ (s live).NoticeSettled)
      ∧ (s (loading .starting)).LastOnBus g (readW 0x200)
      ∧ (s (loading .starting)).Carries .a (l.latch 12) (some (takenA l)) .stampRead
      ∧ ((s (loading .starting)).engines.get .a).sessionOf 1 0 = some (ses1 .opening)
      ∧ (s (loading .starting)).isLoading = true
      ∧ (live.spec 1).closes ((ses1 .opening).place 2 15 7).stage = true
      ∧ (live.spec 1).closes ((ses1 .opening).place 2 3 7).stage = false :=
  ⟨⟨⟨rfl, rfl, rfl⟩, rfl, rfl, ⟨.data true, by decide⟩, rfl, rfl, rfl, .inr (.inr rfl)⟩,
    ⟨rfl, rfl, rfl⟩, rfl, rfl, rfl, by decide, by decide⟩

/-- A generation found that is not BASEGEN 5, one that is, and the last write of a burst. -/
theorem witness_CommitIsStaleOrGoesOnAndEnds :
    let l := linesOf 0x202 .write 15 7
    let g := lastOf (.commit .a false) (readW 0x200)
    let h := lastOf (.commit .a true) (writeW 0x200)
    let s := fun gr m =>
      { carry (atA live (flight l .commit .granted) [ses1 .closing] []) gr with mem := m }
    ((s g []).OnBus g (readW 0x200) []
        ∧ (s g []).Carries .a (l.latch 12) (some (takenA l)) .commit
        ∧ IsRecord (takenA l).cls 1 0 2 0x200
        ∧ ((s g []).engines.get .a).sessionOf 1 0 = some (ses1 .closing)
        ∧ ((s g []).spec 1).stamp = true ∧ g.done = 0 ∧ (l.latch 12).dir = .write
        ∧ ((s g []).spec 1).policy = .guarded
        ∧ ((s g []).answerData (readW 0x200) answer).extractLsb' 0 16 ≠ (5 : Count))
      ∧ (ses1 .closing).baseGen
          = some (((s g [(0x800, 5)]).answerData (readW 0x200) answer).extractLsb' 0 16)
      ∧ (s h []).LastOnBus h (writeW 0x200)
      ∧ (s h []).Carries .a (l.latch 12) (some (takenA l)) .commit :=
  ⟨⟨⟨rfl, rfl, rfl⟩, rfl, ⟨.data true, by decide⟩, rfl, rfl, rfl, rfl, rfl, by decide⟩, by decide,
    ⟨rfl, rfl, rfl⟩, rfl⟩

/-- A record listed torn; one whose check word is not its CRC-32; one without CHECK; and each while
the part is LOADING. -/
theorem witness_CaptureIsVerifiedAndServed :
    let l := linesOf 0x101 .read 15 0
    let l1 := linesOf 0x202 .read 15 0
    let cap1 : Capture := { capFilling with window := 1, base := 0x200 }
    let g := fun a => lastOf (.capture .a) (readW a)
    let of := fun x : State => carry (atA x (flight l .capture .granted) [] [capFilling]) (g 0x101)
    let of1 := fun x : State => carry (atA x (flight l1 .capture .granted) [] [cap1]) (g 0x203)
    let s := of live
    let s1 := of1 live
    let torn : TornEntry := { base := 0x100, window := 0 }
    (s.LastOnBus (g 0x101) (readW 0x101)
        ∧ s.Carries .a (l.latch 12) (some (takenA l)) .capture
        ∧ IsRecord (takenA l).cls 0 0 1 0x100
        ∧ (s.engines.get .a).captureOf 0 0 = some capFilling ∧ s.isLoading = false
        ∧ s.NoticeSettled ∧ torn ∉ s.torn ∧ s.suspect[0]? = some false ∧ (s.spec 0).check = false)
      ∧ torn ∈ { s with torn := [torn] }.torn
      ∧ s1.LastOnBus (g 0x203) (readW 0x203)
      ∧ s1.Carries .a (l1.latch 12) (some (takenA l1)) .capture
      ∧ IsRecord (takenA l1).cls 1 0 2 0x200
      ∧ (s1.engines.get .a).captureOf 1 0 = some cap1 ∧ (s1.spec 1).check = true
      ∧ [0, s1.answerData (readW 0x203) answer].getLast? ≠ some (crc32 [0])
      ∧ ∀ x ∈ [(of (loading .starting), g 0x101), (of1 (loading .starting), g 0x203)],
          x.1.LastOnBus x.2 (x.2.todo.headD (readW 0)) ∧ x.1.isLoading = true :=
  ⟨⟨⟨rfl, rfl, rfl⟩, rfl, ⟨.data true, by decide⟩, rfl, rfl, .inr (.inr rfl), by decide, rfl, rfl⟩,
    by decide, ⟨rfl, rfl, rfl⟩, rfl, ⟨.data true, by decide⟩, rfl, rfl, by decide +kernel, by
      intro x hx
      simp only [List.mem_cons, List.not_mem_nil, or_false] at hx
      rcases hx with rfl | rfl <;> exact ⟨⟨rfl, rfl, rfl⟩, rfl⟩⟩

/-! ### Notices -/

/-- No map; 7 and 8 entries queued, outside LOADING and in it. -/
theorem witness_NoticeIsReceived :
    let q := fun n => List.replicate n (entryOf false)
    State.reset.map = none ∧ live.map = some map ∧ live.isLoading = false
      ∧ { live with queue := q 7 }.queue.length < 8 ∧ 8 ≤ { live with queue := q 8 }.queue.length
      ∧ (map.rings.get .a).isSome = true ∧ (Both.only .a).get .a = true
      ∧ (loading .draining).map = some map ∧ (loading .draining).isLoading = true := by decide

/-- A claim held; a loss due at A, at B alone; the head entry for A, for B alone; nothing. -/
theorem witness_NoticeUnitMakesItsChoice :
    let due := fun (s : State) q => (s.ringPlace q).isSome = true ∧ (s.rings.get q).lrep = true
    let lossA := { live with rings := ⟨{ live.rings.a with lrep := true }, live.rings.b⟩ }
    let lossB := { live with rings := ⟨live.rings.a, { live.rings.b with lrep := true }⟩ }
    { live with noticeClaim := some (.head .a) }.noticeClaim ≠ none
      ∧ live.noticeClaim = none ∧ live.granted = none
      ∧ due lossA .a ∧ ¬ due lossB .a ∧ due lossB .b ∧ ¬ due live .a ∧ ¬ due live .b
      ∧ (entryOf false).deferred = false ∧ (entryOf false).dest.get .a = true
      ∧ (entryOf false).handled.get .a = false
      ∧ { entryOf false with handled := ⟨true, false⟩ }.handled.get .a = true
      ∧ { entryOf false with handled := ⟨true, false⟩ }.handled.get .b = false
      ∧ live.queue = [] := by decide

theorem witness_NoticeBurstsEnd :
    let s := fun op => { carry live (lastOf op producerW) with queue := [entryOf false] }
    ((s (.entry .a 0)).LastOnBus (lastOf (.entry .a 0) producerW) producerW
        ∧ (s (.entry .a 0)).map = some map ∧ map.rings.get .a = some ringA
        ∧ (s (.entry .a 0)).queue = [entryOf false])
      ∧ ((s (.fullRing .a 1)).LastOnBus (lastOf (.fullRing .a 1) producerW) producerW
        ∧ (s (.fullRing .a 1)).queue = [entryOf false])
      ∧ (s (.lossReport .a 1)).LastOnBus (lastOf (.lossReport .a 1) producerW) producerW :=
  ⟨⟨⟨rfl, rfl, rfl⟩, rfl, rfl, rfl⟩, ⟨⟨rfl, rfl, rfl⟩, rfl⟩, rfl, rfl, rfl⟩

/-! ### Loads -/

/-- A request write of 13 words completes in BARE, in ACTIVE and in LOADING. In ACTIVE port B's
watched write waits, not yet at the hold limit of 8 and at it, and a session of port A is past the
session limit; a write of port B to a ring's producer word is refused. -/
theorem witness_RequestWriteBeginsALoad :
    let e : EState := .inMemory (accOf 0 .write) none (.single (.request 13)) .granted
    let g := lastOf (.single .a) (writeW 0)
    let s := fun s : State => carry (atA s e [ses0] [cap0]) g
    let watched := fun arrived : Time => (s live).withPort .b
      { estate := .inMemory { accOf 0x601 .write with arrived := arrived } none
          (.single (.watched .a 0)) .waiting, sessions := [], captures := [] } Pins.quiet
    let past := fun arrived => (watched arrived).takeEvents [.hold .b, .session .a 0 1]
    ((s live).LastOnBus g (writeW 0)
        ∧ (s live).Carries .a (accOf 0 .write) none (.single (.request 13))
        ∧ (s live).isLoading = false ∧ (accOf 0 .write).dir = .write)
      ∧ (((past 13).2.engines.a.length, (past 13).2.engines.b.length) = (1, 0)
        ∧ (past 13).1.engines.b.waiting = true
        ∧ ((past 12).2.engines.a.length, (past 12).2.engines.b.length) = (1, 1)
        ∧ (past 12).1.engines.b.estate = .idle
        ∧ accessOf (.ringAccess .b 0x600 .write 15 1) = some (.b, linesOf 0x600 .write 15 1)
        ∧ ((s live).takeEvents [.access .b 0x600 .write 15 1]).2.engines.b.length = 1)
      ∧ ((s State.reset).LastOnBus g (writeW 0) ∧ (s State.reset).isLoading = false)
      ∧ (s (loading .starting)).LastOnBus g (writeW 0)
      ∧ (s (loading .starting)).Carries .a (accOf 0 .write) none (.single (.request 13))
      ∧ (s (loading .starting)).isLoading = true :=
  ⟨⟨⟨rfl, rfl, rfl⟩, rfl, rfl, rfl⟩, by decide, ⟨⟨rfl, rfl, rfl⟩, rfl⟩, ⟨rfl, rfl, rfl⟩, rfl, rfl⟩

/-- Drained, and not drained: an entry of before the load is queued. -/
theorem witness_LoaderDrainsThenReads :
    ((carry (loading .starting) (lastOf .status statusW)).LastOnBus (lastOf .status statusW) statusW
        ∧ (carry (loading .starting) (lastOf .status statusW)).part = .loading (loadOf .starting))
      ∧ (loading .draining).part = .loading (loadOf .draining)
      ∧ (∀ e ∈ { loading .draining with queue := [entryOf true] }.queue, e.deferred = true)
      ∧ (∀ q, ((loading .draining).rings.get q).lrep = false)
      ∧ (loading .draining).noticeClaim = none ∧ (loading .draining).granted = none
      ∧ ¬ ∀ e ∈ { loading .draining with queue := [entryOf false] }.queue, e.deferred = true :=
  ⟨⟨⟨rfl, rfl, rfl⟩, rfl⟩, rfl, by decide, fun q => by cases q <;> rfl, rfl, rfl, by decide⟩

/-- The image of the map with no windows, and words of zeros; a header write of each ring. -/
theorem witness_LoaderValidatesAndInstallsInOrder :
    let body : List Word := [0, 0, 0x00010001, 0x00010001, 0, 0, 0, 0]
    let g := { lastOf .imageRead (readW 12) with
      done := 12, got := [0, 0, 1, crc32 (body ++ [0])] ++ body }
    let s := fun g => carry (loading .reading) g
    let h := fun q => lastOf (.ringHeader q) (writeW 0x601)
    let s' := fun g => carry (loading (.installing map)) g
    ((s g).LastOnBus g (readW 12) ∧ (s g).part = .loading (loadOf .reading)
        ∧ (match validate (s g).straps 13 (g.got ++ [(s g).answerData (readW 12) answer]) with
            | .passes _ => true
            | .fails _ => false) = true)
      ∧ validate live.straps 13 (List.replicate 13 0) = .fails .format
      ∧ ((s' (h .a)).LastOnBus (h .a) (writeW 0x601)
        ∧ (s' (h .a)).part = .loading (loadOf (.installing map)))
      ∧ (s' (h .b)).LastOnBus (h .b) (writeW 0x601) :=
  ⟨⟨⟨rfl, rfl, rfl⟩, rfl, by decide +kernel⟩, by decide +kernel, ⟨⟨rfl, rfl, rfl⟩, rfl⟩,
    rfl, rfl, rfl⟩

/-- The words of an image with this word 2 after its first four words, whose CRC it carries. -/
def imageOf (word2 : Word) (body : List Word) : List Word := [0, 0, word2, crc32 body] ++ body

/-- Words 4 to 12 of an image with no ring but by this capacity code for ring A. -/
def bodyOf (code : Word) : List Word := [0, 0, 0x00010001, 0x00010001, 0, 0, code, 0, 0]

/-- A window entry of one record of two words, of this MODE, POLICY and STAMP word. -/
def windowEntry (word1 : Word) : List Word := [0x00100100, word1, 0x00010002, 0]

/-- A layout entry of one run of two 4-byte elements. -/
def layoutEntry : List Word := [0x00000801, 0x000000C1, 0, 0, 0]

theorem layoutEntry_holds :
    EntryLayout (imageOf 0x00010101 (bodyOf 0 ++ windowEntry 0x40 ++ layoutEntry)) 17 := by
  refine ⟨by decide, by decide, by decide, by decide, by decide, rfl, ?_⟩
  intro before w after h
  have h' : [4, 4] = before ++ w :: after := h
  match before, h' with
  | [], h' => cases h'; decide
  | [_], h' => cases h'; decide
  | _ :: _ :: [], h' => simp at h'
  | _ :: _ :: _ :: _, h' => simp at h'

/-- An image that passes FORMAT, LENGTH, CHECK and the tests up to RING. -/
theorem witness_ValidatedMapHolds :
    let body := bodyOf 0
    let img := fun n crc => validate live.straps n ([0, 0, 1, crc] ++ body)
    ((match img 13 (crc32 body) with
        | .passes _ => true
        | .fails _ => false) = true
      ∧ ImageFormat (imageOf 1 body) ∧ ¬ ImageFormat (imageOf 2 body)
      ∧ 14 ≠ 13 + 4 * imageBits (imageOf 1 body) 2 8 8 + 5 * imageBits (imageOf 1 body) 2 16 8
      ∧ crc32 body ≠ 0
      ∧ ImageRange (imageOf 1 body) ∧ ImagePolicy (imageOf 1 body)
      ∧ ImageRing (imageOf 1 body) ∧ ¬ ImageRing (imageOf 1 (bodyOf 7)))
      ∧ ImageLayout (imageOf 1 body) := by
  refine ⟨?_, fun j h => absurd h (Nat.not_lt_zero j), fun k h => absurd h (Nat.not_lt_zero k)⟩
  unfold ImageFormat ImageRange ImagePolicy ImageRing EntryRange
  refine ⟨?_, ?_, ?_, ?_, ?_, ?_, ?_, ?_, ?_⟩ <;> (try dsimp only) <;> decide +kernel

/-- An image of one RECORD window with KIND 2; with its layout missing; GUARDED without STAMP. -/
theorem witness_ValidatedMapHolds_entries :
    let guarded := imageOf 0x00010101 (bodyOf 0 ++ windowEntry 0x40 ++ layoutEntry)
    let noLayout := imageOf 0x00000101 (bodyOf 0 ++ windowEntry 0)
    ((¬ ImageRange (imageOf 0x00000101 (bodyOf 0 ++ [0x00200100, 0, 0, 0]))
        ∧ ImageRange guarded ∧ ¬ ImagePolicy guarded ∧ ImageRange noLayout)
      ∧ ¬ ImageLayout noLayout) ∧ ImageLayout guarded := by
  refine ⟨⟨?_, fun h => absurd (h.2 0 (by decide) (by decide)).1 (by decide)⟩,
    fun j h => ?_, fun k h => ?_⟩
  · unfold ImageRange ImagePolicy EntryRange
    refine ⟨?_, ?_, ?_, ?_⟩ <;> (try dsimp only) <;> decide +kernel
  · have hj : j = 0 := by
      have h' : j < 1 := h
      omega
    subst hj
    exact layoutEntry_holds
  · have hk : k = 0 := by
      have h' : k < 1 := h
      omega
    subst hk
    decide

/-- An image of one RECORD window, one layout and two rings passes, with every field that of the tables of
spec/10: port A BIG, THRESH 4, LOADRIGHT; port B READ_ONLY, THRESH 1; SEV 1 to 11 of 0x155555. -/
theorem witness_ValidatedMapHolds_contents :
    let body : List Word := [0x141, 0x14, 0x00020003, 0x00040008, 0x155555, 0x600, 1, 0x700, 2]
      ++ windowEntry 0x18 ++ layoutEntry
    validate live.straps 22 (imageOf 0x00010101 body)
      = .passes
          { windows :=
              [{ base := 0x100
                 kind := .record { fullSpec with mode := .close, reccnt := 1 }
                 rights := ⟨.none, .readWrite⟩ }]
            layouts := [{ total := 8, runs := [⟨4, 2⟩], patterns := [.p4, .p4] }]
            settings :=
              ⟨{ order := .big, unmapped := .pass, thresh := 4, loadRight := true },
                { order := .little, unmapped := .readOnly, thresh := 1, loadRight := false }⟩
            sessionLimit := 3, captureLimit := 2, holdLimit := 8, memoryLimit := 4
            severities := List.replicate 11 1
            rings := ⟨some { base := 0x600, cap := .c8 }, some { base := 0x700, cap := .c16 }⟩ } := by
  decide +kernel

/-- Adjoining extents pass; a shared word fails. -/
theorem witness_OverlapTestComparesEveryPair :
    let v := fun base =>
      validateOverlap 0 [] map.settings
        [{ window3 with base := 0x100 }, { window3 with base := base }] [] ⟨none, none⟩
    v 0x107 = .fails .overlap ∧ v 0x108 ≠ .fails .overlap ∧ 0 < window3.extent := by decide

/-- The DONE write; the last write of REPORTING, completing and expiring. -/
theorem witness_LoadEndsInActiveOrInFrom :
    let g := lastOf .status statusW
    let s := fun ph => carry (loading ph) g
    ((s (.installing map)).LastOnBus g statusW
        ∧ (s (.installing map)).part = .loading (loadOf (.installing map)))
      ∧ ((s .reporting).part = .loading (loadOf .reporting)
        ∧ { s .reporting with result := .check }.LastOnBus g statusW
        ∧ { s .reporting with result := .check }.result ≠ .done)
      ∧ { s .reporting with result := .memory }.Overdue g statusW []
      ∧ { s .reporting with result := .memory }.result = .memory :=
  ⟨⟨⟨rfl, rfl, rfl⟩, rfl⟩, ⟨rfl, ⟨rfl, rfl, rfl⟩, by decide⟩, ⟨rfl, rfl, by decide⟩, rfl⟩

theorem witness_DeferredNoticesAreReleased :
    State.reset.map = none ∧ live.map = some map ∧ (entryOf true).deferred = true
      ∧ (map.rings.get .a).isSome = true := by decide

/-- At the hold limit; one microsecond short of it, in BARE and in ACTIVE, refused and carried, and
the same access arriving now; short of the hold limit of FROM and at it. -/
theorem witness_HeldAccessIsTakenAfresh :
    let acc := fun a => { accOf a .write with arrived := 13 }
    let s := fun a => atA live (.held (acc a)) [] []
    let l := linesOf 0x500 .write 15 7
    ((atA live (.held (accOf 0x500 .write)) [] []).engines.get .a).estate
          = .held (accOf 0x500 .write)
      ∧ live.holdLimit ≤ age live.timebase (accOf 0x500 .write).arrived
      ∧ (s 0x500).part = .active map ∧ ¬ live.holdLimit ≤ age live.timebase (acc 0x500).arrived
      ∧ (acc 0x500).be ≠ 0
      ∧ refusalOf map live.straps.imgOrd .a l (live.classOf map l) = some .noWrite
      ∧ refusalOf map live.straps.imgOrd .b l (live.classOf map l) = none
      ∧ live.classOf map l = .plain 3
      ∧ (atA State.reset (.held (acc 0)) [] []).part = .bare
      ∧ ¬ State.reset.holdLimit ≤ age (5012 : Time) (acc 0).arrived
      ∧ (accessOf (.recordWrite .a 0x102 15 7) = some (.a, linesOf 0x102 .write 15 7)
        ∧ (s 0x102).isLoading = false ∧ (s 0x102).resetAsserted = false)
      ∧ age live.timebase (acc 0).arrived < 8 ∧ 7 ≤ age live.timebase (acc 0).arrived :=
  ⟨rfl, by decide, rfl, by decide, by decide, by decide, by decide, by decide, rfl, by decide,
    by decide, by decide⟩

/-! ### Expiries -/

/-- An age of exactly the memory limit. -/
theorem witness_ExpiredSingleOperation :
    let l := linesOf 0x601 .write 15 0
    let g := lastOf (.single .a) (writeW 0x601)
    let s := fun t job => carry (atA live (.inMemory (l.latch 12) t (.single job) .granted) [] []) g
    ((s none .ordinary).Overdue g (writeW 0x601) []
        ∧ (s none .ordinary).Carries .a (l.latch 12) none (.single .ordinary))
      ∧ (s (some (takenA l)) (.watched .a 0)).Overdue g (writeW 0x601) []
      ∧ (s (some (takenA l)) (.watched .a 0)).Carries .a (l.latch 12) (some (takenA l))
          (.single (.watched .a 0)) :=
  ⟨⟨⟨rfl, rfl, by decide⟩, rfl⟩, ⟨rfl, rfl, by decide⟩, rfl⟩

theorem witness_ExpiredReadOfARecord :
    let l := linesOf 0x202 .write 15 7
    let g := fun op => lastOf op (readW 0x200)
    let s := fun op job => carry (atA live (flight l job .granted) [ses1 .opening] []) (g op)
    IsRecord (takenA l).cls 1 0 2 0x200 ∧ (readW 0x200).dir = .read
      ∧ ((s (.stampRead .a) .stampRead).Overdue (g (.stampRead .a)) (readW 0x200) []
        ∧ (s (.stampRead .a) .stampRead).Carries .a (l.latch 12) (some (takenA l)) .stampRead)
      ∧ ((s (.capture .a) .capture).Overdue (g (.capture .a)) (readW 0x200) []
        ∧ (s (.capture .a) .capture).Carries .a (l.latch 12) (some (takenA l)) .capture)
      ∧ (s (.commit .a false) .commit).Overdue (g (.commit .a false)) (readW 0x200) []
      ∧ (s (.commit .a false) .commit).Carries .a (l.latch 12) (some (takenA l)) .commit :=
  ⟨⟨.data true, by decide⟩, rfl, ⟨⟨rfl, rfl, by decide⟩, rfl⟩, ⟨⟨rfl, rfl, by decide⟩, rfl⟩,
    ⟨rfl, rfl, by decide⟩, rfl⟩

/-- 7 and 8 records listed, the record among them and not, its window's flag set and clear. -/
theorem witness_ExpiredWriteTearsTheRecord :
    let l := linesOf 0x202 .write 15 7
    let g := lastOf (.commit .a true) (writeW 0x200)
    let x : TornEntry := { base := 0x200, window := 1 }
    let others := (List.range 8).map fun k =>
      ({ base := 0x300 + BitVec.ofNat 20 k, window := 2 } : TornEntry)
    let s := fun torn flag =>
      { carry (atA live (flight l .commit .granted) [ses1 .closing] []) g with
        torn := torn, suspect := [false, flag, false, false] }
    (IsRecord (takenA l).cls 1 0 2 0x200 ∧ (s [x] false).Overdue g (writeW 0x200) []
        ∧ (s [x] false).Carries .a (l.latch 12) (some (takenA l)) .commit ∧ x ∈ (s [x] false).torn)
      ∧ ((s others true).Overdue g (writeW 0x200) [] ∧ x ∉ others ∧ 8 ≤ others.length
        ∧ (s others true).suspect[1]? = some true)
      ∧ ((s (others.take 7) false).Overdue g (writeW 0x200) [] ∧ x ∉ others.take 7
        ∧ (others.take 7).length < 8)
      ∧ (s others false).Overdue g (writeW 0x200) [] ∧ (s others false).suspect[1]? = some false :=
  ⟨⟨⟨.data true, by decide⟩, ⟨rfl, rfl, by decide⟩, rfl, by decide⟩,
    ⟨⟨rfl, rfl, by decide⟩, by decide, by decide, rfl⟩,
    ⟨⟨rfl, rfl, by decide⟩, by decide, by decide⟩, ⟨rfl, rfl, by decide⟩, rfl⟩

theorem witness_ExpiredNoticeOrLoaderOperation :
    let s := fun op => { carry live (lastOf op producerW) with queue := [entryOf false] }
    let t := fun op ph => carry (loading ph) (lastOf op statusW)
    (s (.entry .a 0)).Overdue (lastOf (.entry .a 0) producerW) producerW []
      ∧ (s (.fullRing .a 1)).Overdue (lastOf (.fullRing .a 1) producerW) producerW []
      ∧ (s (.lossReport .a 1)).Overdue (lastOf (.lossReport .a 1) producerW) producerW []
      ∧ (s (.entry .a 0)).queue = [entryOf false]
      ∧ ((t .status .starting).Overdue (lastOf .status statusW) statusW []
        ∧ (t .status .starting).part = .loading (loadOf .starting))
      ∧ (t .imageRead .reading).Overdue (lastOf .imageRead statusW) statusW []
      ∧ (t .status .reporting).Overdue (lastOf .status statusW) statusW []
      ∧ { t .status .reporting with result := .check }.result ≠ .memory :=
  ⟨⟨rfl, rfl, by decide⟩, ⟨rfl, rfl, by decide⟩, ⟨rfl, rfl, by decide⟩, rfl,
    ⟨⟨rfl, rfl, by decide⟩, rfl⟩, ⟨rfl, rfl, by decide⟩, ⟨rfl, rfl, by decide⟩, by decide⟩

/-- Each kind of claim at the hold limit exactly; one microsecond before it nothing is due. -/
theorem witness_HoldLimitEndsTheAccess :
    let l := linesOf 0x202 .write 15 7
    let due := fun acc : Access => live.holdLimit ≤ age live.timebase acc.arrived
    due (l.latch 12) ∧ ¬ due (l.latch 13) ∧ IsRecord (takenA l).cls 1 0 2 0x200
      ∧ ((atA live (.held (l.latch 12)) [] []).engines.get .a).estate = .held (l.latch 12)
      ∧ (∀ job ∈ [Job.single .ordinary, .single (.watched .a 0), .stampRead, .commit, .capture],
          ((atA live (flight l job .waiting) [] []).engines.get .a).estate
            = .inMemory (l.latch 12) (some (takenA l)) job .waiting)
      ∧ (live.engines.get .a).estate = .idle :=
  ⟨by decide, by decide, ⟨.data true, by decide⟩, rfl, fun _ _ => rfl, rfl⟩

/-! ### Every step -/

/-- ACTIVE with a session, a capture, an unconsumed notice, a torn record, and an access in memory
whose word access is presented and about to complete. -/
def working : State :=
  { carry
      (atA live (flight (linesOf 0x500 .read 15 0) (.single .ordinary) .granted) [ses0] [cap0])
      (lastOf (.single .a) (readW 0x500)) with
    pending := [.singleOperationCompletes answer]
    attn := ⟨true, false⟩
    rings :=
      ⟨{ live.rings.a with prod := 1, shadow := some 1 :: List.replicate 7 none }, live.rings.b⟩
    torn := [{ base := 0x200, window := 1 }]
    mem := [(0x1400, 1)] }

theorem working_steps : ∃ t, step working = .next t ∧ t.pins.a.out = .ready (some 1) :=
  ⟨_, rfl, by decide⟩

theorem working_not_reset : working.HeldInReset := fun h => by cases h

theorem witness_StepChangesMemoryOnTheBusAlone :
    (∃ t, exec (.singleOperationCompletes answer)
          (carry { working with mem := [] } (lastOf (.single .a) (writeW 0x500))) = .next t
        ∧ t.mem.readByte 0x1400 ≠ Memory.readByte [] 0x1400)
      ∧ working.mem.wf = true := by
  refine ⟨⟨_, rfl, by decide⟩, by decide⟩

theorem witness_AccessLeavesTheOtherPort :
    accessOf (.recordRead .b 0x102 15) = some (.b, linesOf 0x102 .read 15 0)
      ∧ (∃ t, exec (.recordRead .b 0x102 15) working = .next t ∧ t.engines.b.captures ≠ [])
      ∧ working.granted.isSome = true ∧ live.granted.isSome = false
      ∧ (live.engines.get .a).waiting = false :=
  ⟨rfl, ⟨_, rfl, by decide⟩, rfl, rfl, rfl⟩

theorem witness_StepKeepsStoresBounded : working.StoresHold ∧ ∃ t, step working = .next t := by
  refine ⟨⟨fun p => ?_, by decide, by decide, by decide⟩, _, rfl⟩
  cases p <;> exact ⟨by decide, by decide, by decide, by decide, by decide⟩

theorem witness_StepKeepsEntriesSettled :
    (∀ p, (working.engines.get p).EntriesSettled) ∧ working.BareIsEmpty ∧ working.HeldInReset
      ∧ ∃ t, step working = .next t := by
  refine ⟨fun p => ?_, fun h => (by cases h), working_not_reset, _, rfl⟩
  cases p
  · refine ⟨fun ses h hne => ?_, fun cap h hne => ?_⟩
    · rw [List.mem_singleton.1 h] at hne
      exact absurd rfl hne
    · rw [List.mem_singleton.1 h] at hne
      cases hne
  · exact ⟨fun ses h => (by cases h), fun cap h => by cases h⟩

theorem witness_StepKeepsClaimsInAgreement :
    working.ClaimsAgree ∧ working.NoPortWaits ∧ working.HeldInReset
      ∧ ∃ t, step working = .next t := by
  refine ⟨⟨fun p acc t job h => ?_, fun g p h hp => ?_, fun p acc job c h => ?_⟩,
    fun h => (by cases h), working_not_reset, _, rfl⟩
  · cases p
    · cases h
      exact ⟨_, rfl, rfl⟩
    · cases h
  · cases h
    cases hp
    exact ⟨_, _, _, rfl, rfl⟩
  · cases p <;> cases h

theorem witness_StepKeepsTheNoticeUnitSettled :
    working.NoticeSettled ∧ working.HeldInReset ∧ ∃ t, step working = .next t :=
  ⟨.inr (.inr rfl), working_not_reset, _, rfl⟩

theorem witness_StepKeepsAttentionRight :
    working.AttentionRight ∧ ∃ t, step working = .next t := by
  refine ⟨fun p => ?_, _, rfl⟩
  cases p
  · refine ⟨fun _ => ⟨map, ringA, 1, rfl, rfl, by decide, by decide⟩, fun _ => rfl⟩
  · refine ⟨fun h => (by cases h), fun ⟨_, _, sev, _, _, h, _⟩ => ?_⟩
    have h' : some sev ∈ List.replicate 8 (none : Option (BitVec 2)) := h
    simp at h'

/-- ACTIVE with one notice unconsumed in ring A, port A's watched write of the count 1 waiting, and
an entry burst for ring A about to complete. -/
def entering : State :=
  { atA working (flight (linesOf 0x601 .write 15 1) (.single (.watched .a 1)) .waiting) [ses0] [cap0]
    with
    pending := [.entryBurstCompletes answer]
    granted := some (lastOf (.entry .a 0) { producerW with data := 2 })
    queue := [entryOf false]
    rings := ⟨{ working.rings.a with watch := some .a }, working.rings.b⟩ }

theorem witness_StepKeepsRingsWithinCapacity :
    entering.RingsWithin ∧ entering.CountsHold ∧ entering.RingsNamed ∧ entering.ClaimsAgree
      ∧ entering.NoPortWaits ∧ entering.HeldInReset
      ∧ ∃ t, step entering = .next t ∧ (t.rings.get .a).prod = 2 := by
  refine ⟨fun p pl h => ?_, ⟨fun g p n hg ho pl h => ?_, fun p acc t ring n c h => ?_⟩,
    ⟨fun g q n hg ho => ?_, fun p acc t ring n c h => ?_⟩,
    ⟨fun p acc t job h => ?_, fun g p h hp => ?_, fun p acc job c h => ?_⟩, fun h => (by cases h),
    fun h => (by cases h), _, rfl, by decide⟩
  · cases p <;> cases h <;> exact ⟨by decide, by decide, by decide⟩
  · cases hg
    cases ho
    cases h
    decide
  · cases p <;> cases h
    exact ⟨rfl, by decide⟩
  · cases hg
    rcases ho with h | h | h <;> cases h
    rfl
  · cases p <;> cases h
    rfl
  · cases p <;> cases h
  · cases h
    cases hp
  · cases p <;> cases h

theorem witness_StepKeepsMapsValid :
    working.MapsHold ∧ working.HeldInReset ∧ ∃ t, step working = .next t := by
  refine ⟨⟨fun m h => ?_, fun ld m h => by cases h⟩, working_not_reset, _, rfl⟩
  cases h
  refine ⟨by decide, by decide, by decide, by decide, fun p => (by cases p <;> decide), ?_, ?_,
    fun p pl h => (by cases p <;> cases h <;> decide), by decide⟩
  · intro w hw
    simp only [map, List.mem_cons, List.not_mem_nil, or_false] at hw
    rcases hw with rfl | rfl | rfl | rfl <;> exact ⟨by decide, by decide⟩
  · intro w hw spec h
    simp only [map, List.mem_cons, List.not_mem_nil, or_false] at hw
    rcases hw with rfl | rfl | rfl | rfl <;> cases h <;>
      exact ⟨by decide, by decide, by decide, by decide, by decide, layout, rfl, by decide, by decide⟩

end Sys2Proof.Tests
end

section
/-! PROOFS. A null access (R11): what an access that is taken leaves in each part state, how that
becomes the meaning of an access row, and how a held access is taken afresh. -/

namespace Sys2Proof.Machine

/-! ## One port's share of State replaced twice, and the Notice Unit beside it -/

@[simp] theorem State.withPort_setPins (s : State) (p : Port) (y x : Pins) (e : Engine) :
    (s.setPins p y).withPort p e x = s.withPort p e x := by
  simp [State.setPins, State.withPort]

@[simp] theorem State.withPort_setEState (s : State) (p : Port) (es : EState) (e : Engine)
    (x : Pins) : (s.setEState p es).withPort p e x = s.withPort p e x := by
  simp [State.setEState, State.setEngine, State.withPort]

/-- Whether the Notice Unit is settled does not depend on the ports. -/
theorem State.NoticeSettled.withPort {s : State} (h : s.NoticeSettled) (p : Port) (e : Engine)
    (x : Pins) : (s.withPort p e x).NoticeSettled := h

/-! ## An access that is taken, by the part state (R165) -/

/-- In ACTIVE a null access ends READY before classification (R11). -/
theorem State.takeAccess_null_of_active {s : State} {m : RecordMap} (p : Port) {acc : Access}
    (hm : s.part = .active m) (hbe : acc.be = 0) :
    s.takeAccess p acc = s.endAccess p (.ready (dataOn acc.dir 0)) := by
  have htake : s.taking p acc = (s.endReady p acc 0, []) := by
    simp only [State.taking, hm, State.takeActive, hbe, if_true]
  simp only [State.takeAccess, htake, received, State.raiseAll, State.endReady,
    Access.dataLines_eq]

/-- In LOADING an access is held (R10). -/
theorem State.takeAccess_of_loading {s : State} {ld : Load} (p : Port) (acc : Access)
    (hl : s.part = .loading ld) : s.takeAccess p acc = s.setEState p (.held acc) := by
  simp only [State.takeAccess, State.taking, hl, received, State.raiseAll]

/-- A request write has all four enables on (R142). -/
theorem requestLength_no_enables (o : ByteOrder) (raw : Word) : requestLength o 0 raw = none := by
  simp [requestLength, allLanes]

/-- A null access in BARE is no request write (R12, R142). -/
theorem State.bareRequest_null (s : State) {acc : Access} (hbe : acc.be = 0) :
    s.bareRequest acc = none := by
  unfold State.bareRequest
  cases acc.dir with
  | read => rfl
  | write => simp only [hbe, requestLength_no_enables, ite_self]

/-- In BARE a null access is carried as an ordinary single operation (R12). -/
theorem State.takeAccess_null_of_bare {s : State} (p : Port) {acc : Access}
    (hb : s.part = .bare) (hbe : acc.be = 0) :
    s.takeAccess p acc = s.setEState p (.inMemory acc none (.single .ordinary) .waiting) := by
  simp only [State.takeAccess, State.taking, hb, State.takeBare, s.bareRequest_null hbe, received,
    State.raiseAll, State.claim]

/-! ## From the access taken to the command, and to the end of a load -/

/-- An access row that changes its port's share of State alone, beside a settled Notice Unit, means
what the access that is taken leaves. -/
theorem exec_access_of_taken {c : Instr} {p : Port} {l : Lines} {s : State} {e : Engine} {x : Pins}
    (hc : accessOf c = some (p, l)) (ha : s.Accepts p) (hn : s.NoticeSettled)
    (htake : (s.setPins p { s.pins.get p with strobe := some l }).takeAccess p
      (l.latch s.timebase) = s.withPort p e x) :
    exec c s = .next (s.withPort p e x) := by
  rw [exec_access hc, State.present_accepts l ha, htake,
    State.chooseBeside_of_settled (hn.withPort p e x)]

/-- A held access short of the hold limit is taken afresh (R10, R160). -/
theorem State.retake_of_not_due {s : State} {p : Port} {acc : Access}
    (hheld : (s.engines.get p).estate = .held acc)
    (hage : age s.timebase acc.arrived < s.holdLimit) :
    s.retake p = (s.setEState p .idle).takeAccess p acc := by
  have hdue : s.holdDue acc = false := decide_eq_false (Nat.not_le.mpr hage)
  simp only [State.retake, hheld, hdue, Bool.false_eq_true, if_false]

/-! ## The four moments of R11 -/

/-- A null access that arrives in ACTIVE ends READY at once. -/
theorem exec_null_of_active {c : Instr} {p : Port} {l : Lines} {s : State} {m : RecordMap}
    (hc : accessOf c = some (p, l)) (ha : s.Accepts p) (hm : s.part = .active m) (hbe : l.be = 0)
    (hn : s.NoticeSettled) :
    exec c s = .next (s.endedAtOnce p l (.ready (dataOn l.dir 0))) := by
  refine exec_access_of_taken hc ha hn ?_
  rw [State.takeAccess_null_of_active p (by simpa using hm) hbe, State.endAccess_eq]
  simp [Lines.latch]

/-- An access that arrives in LOADING is held. -/
theorem exec_access_of_loading {c : Instr} {p : Port} {l : Lines} {s : State} {ld : Load}
    (hc : accessOf c = some (p, l)) (ha : s.Accepts p) (hl : s.part = .loading ld)
    (hn : s.NoticeSettled) :
    exec c s = .next (s.arrived p l (.held (l.latch s.timebase))) := by
  refine exec_access_of_taken hc ha hn ?_
  rw [State.takeAccess_of_loading p _ (by simpa using hl), State.setEState_eq]
  simp

/-- A held null access taken afresh in ACTIVE ends READY. -/
theorem State.retake_null_of_active {s : State} {p : Port} {acc : Access} {m : RecordMap}
    (hheld : (s.engines.get p).estate = .held acc) (hbe : acc.be = 0)
    (hage : age s.timebase acc.arrived < s.holdLimit) (hm : s.part = .active m) :
    s.retake p
      = s.ended p (s.engines.get p).sessions (s.engines.get p).captures
          (.ready (dataOn acc.dir 0)) := by
  rw [State.retake_of_not_due hheld hage,
    State.takeAccess_null_of_active p (by simpa using hm) hbe, State.endAccess_eq]
  simp [State.ended]

/-- A held null access taken afresh in BARE is an access of BARE. -/
theorem State.retake_null_of_bare {s : State} {p : Port} {acc : Access}
    (hheld : (s.engines.get p).estate = .held acc) (hbe : acc.be = 0)
    (hage : age s.timebase acc.arrived < s.holdLimit) (hb : s.part = .bare) :
    s.retake p
      = s.withPort p
          { s.engines.get p with estate := .inMemory acc none (.single .ordinary) .waiting }
          (s.pins.get p) := by
  rw [State.retake_of_not_due hheld hage,
    State.takeAccess_null_of_bare p (by simpa using hb) hbe, State.setEState_eq]
  simp

/-- Settles O8, by the part state in which the null access arrives or is taken afresh. -/
theorem nullAccessEndsAtOnce : Obligations.NullAccessEndsAtOnce := by
  refine ⟨?active, ?loading, ?afresh⟩
  case active =>
    intro c p l s m hc ha hm hbe hn
    exact exec_null_of_active hc ha hm hbe hn
  case loading =>
    intro c p l s ld hc ha hl _ hn
    exact exec_access_of_loading hc ha hl hn
  case afresh =>
    intro p acc s hheld hbe hage
    exact ⟨fun m hm => State.retake_null_of_active hheld hbe hage hm,
      fun hb => State.retake_null_of_bare hheld hbe hage hb⟩

end Sys2Proof.Machine
end

section
/-! PROOFS. Mirroring (R27): the byte and the enable on each lane of a word, where the lanes of an
element move, and that a mirrored word or lane set has on each lane what was on the lane it is
exchanged with. -/

namespace Sys2Proof.Machine

/-! ## The lanes of a word and of a lane set -/

/-- A word built from four bytes has each of them on its lane. -/
theorem lane_ofLanes (f : Nat → Byte) {k : Nat} (hk : k < 4) :
    lane (ofLanes (f 0) (f 1) (f 2) (f 3)) k = f k := by
  refine BitVec.eq_of_getLsbD_eq fun i hi => ?_
  simp only [lane, ofLanes, BitVec.getLsbD_extractLsb', BitVec.getLsbD_append]
  interval_cases k <;> grind

/-- A lane set built from four enables has each of them on its lane. -/
theorem enabled_lanesOf (f : Nat → Bool) {k : Nat} (hk : k < 4) :
    enabled (lanesOf (f 0) (f 1) (f 2) (f 3)) k = f k := by
  simp only [enabled, lanesOf, BitVec.getLsbD_append]
  interval_cases k <;> simp

/-- Bit i of a word is bit i mod 8 of the byte on lane i / 8. -/
theorem getLsbD_eq_lane (w : Word) (i : Nat) : w.getLsbD i = (lane w (i / 8)).getLsbD (i % 8) := by
  have hi : i % 8 < 8 := Nat.mod_lt _ (by omega)
  simp [lane, hi, Nat.div_add_mod]

/-- A word is determined by the bytes on its lanes. -/
theorem word_ext {v w : Word} (h : ∀ k < 4, lane v k = lane w k) : v = w := by
  refine BitVec.eq_of_getLsbD_eq fun i hi => ?_
  rw [getLsbD_eq_lane v, getLsbD_eq_lane w, h (i / 8) (by omega)]

/-- A lane set is determined by which lanes are enabled. -/
theorem lanes_ext {a b : Lanes} (h : ∀ k < 4, enabled a k = enabled b k) : a = b :=
  BitVec.eq_of_getLsbD_eq h

/-! ## The lane that a lane is exchanged with -/

/-- The formula of R27 for one element among the elements from lane `s` upward. -/
theorem mirrorWithin_of_mem (before after : List Nat) (s w k : Nat) (hlo : s + before.sum ≤ k)
    (hhi : k < s + before.sum + w) :
    mirrorWithin (before ++ w :: after) s k = 2 * (s + before.sum) + w - 1 - k := by
  induction before generalizing s with
  | nil =>
    have hk : k < s + w := by simpa using hhi
    simp [mirrorWithin, hk]
  | cons x xs ih =>
    rw [List.sum_cons] at hlo hhi ⊢
    have hk : ¬ k < s + x := by omega
    rw [List.cons_append, mirrorWithin, if_neg hk, ih (s + x) (by omega) (by omega)]
    omega

/-- No lane at or above the elements' first lane moves below it. -/
theorem le_mirrorWithin (ws : List Nat) (s k : Nat) (hk : s ≤ k) : s ≤ mirrorWithin ws s k := by
  induction ws generalizing s with
  | nil => exact hk
  | cons w ws ih =>
    unfold mirrorWithin
    split
    · omega
    · have := ih (s + w) (by omega)
      omega

/-- A lane of the elements stays a lane of the elements. -/
theorem mirrorWithin_lt (ws : List Nat) (s k : Nat) (hlo : s ≤ k) (hhi : k < s + ws.sum) :
    mirrorWithin ws s k < s + ws.sum := by
  induction ws generalizing s with
  | nil => exact hhi
  | cons w ws ih =>
    rw [List.sum_cons] at hhi ⊢
    unfold mirrorWithin
    split
    · omega
    · have := ih (s + w) (by omega) (by omega)
      omega

/-- Mirroring twice brings a lane back: a lane of the first element stays in it, and a lane above it
stays above it. -/
theorem mirrorWithin_mirrorWithin (ws : List Nat) (s k : Nat) (hk : s ≤ k) :
    mirrorWithin ws s (mirrorWithin ws s k) = k := by
  induction ws generalizing s with
  | nil => rfl
  | cons w ws ih =>
    by_cases hin : k < s + w
    · have hback : 2 * s + w - 1 - k < s + w := by omega
      rw [mirrorWithin, mirrorWithin, if_pos hin, if_pos hback]
      omega
    · have habove := le_mirrorWithin ws (s + w) k (by omega)
      have hout : ¬ mirrorWithin ws (s + w) k < s + w := by omega
      rw [mirrorWithin, mirrorWithin, if_neg hin, if_neg hout, ih (s + w) (by omega)]

/-- The elements of a word pattern fill the word (R23). -/
theorem Pattern.widths_sum (pat : Pattern) : pat.widths.sum = 4 := by
  cases pat <;> rfl

theorem Pattern.mirrorLane_lt (pat : Pattern) {k : Nat} (hk : k < 4) : pat.mirrorLane k < 4 := by
  have hlt := mirrorWithin_lt pat.widths 0 k (Nat.zero_le k)
  rw [pat.widths_sum] at hlt
  exact hlt hk

@[simp] theorem Pattern.mirrorLane_mirrorLane (pat : Pattern) (k : Nat) :
    pat.mirrorLane (pat.mirrorLane k) = k :=
  mirrorWithin_mirrorWithin pat.widths 0 k (Nat.zero_le k)

/-- The formula of R27 for an element of a word pattern. -/
theorem Pattern.mirrorLane_of_widths {pat : Pattern} {before after : List Nat} {w k : Nat}
    (hw : pat.widths = before ++ w :: after) (hlo : before.sum ≤ k) (hhi : k < before.sum + w) :
    pat.mirrorLane k = 2 * before.sum + w - 1 - k := by
  simpa [Pattern.mirrorLane, hw] using
    mirrorWithin_of_mem before after 0 w k (by omega) (by omega)

/-! ## What is on each lane after mirroring -/

/-- A mirrored word has on each lane the byte of the lane it is exchanged with. -/
theorem lane_mirrorWord (pat : Pattern) (w : Word) {k : Nat} (hk : k < 4) :
    lane (mirrorWord pat w) k = lane w (pat.mirrorLane k) :=
  lane_ofLanes (fun j => lane w (pat.mirrorLane j)) hk

/-- A mirrored lane set has on each lane the enable of the lane it is exchanged with. -/
theorem enabled_mirrorLanes (pat : Pattern) (be : Lanes) {k : Nat} (hk : k < 4) :
    enabled (mirrorLanes pat be) k = enabled be (pat.mirrorLane k) :=
  enabled_lanesOf (fun j => enabled be (pat.mirrorLane j)) hk

/-- Mirroring a word twice restores it. -/
@[simp] theorem mirrorWord_mirrorWord (pat : Pattern) (w : Word) :
    mirrorWord pat (mirrorWord pat w) = w :=
  word_ext fun k hk => by
    rw [lane_mirrorWord pat _ hk, lane_mirrorWord pat _ (pat.mirrorLane_lt hk),
      pat.mirrorLane_mirrorLane]

/-- Mirroring a lane set twice restores it. -/
@[simp] theorem mirrorLanes_mirrorLanes (pat : Pattern) (be : Lanes) :
    mirrorLanes pat (mirrorLanes pat be) = be :=
  lanes_ext fun k hk => by
    rw [enabled_mirrorLanes pat _ hk, enabled_mirrorLanes pat _ (pat.mirrorLane_lt hk),
      pat.mirrorLane_mirrorLane]

/-- Settles O14: the formula, the bytes with their enables, the table of the six patterns and the
involution. -/
theorem mirroringMovesEachLane : Obligations.MirroringMovesEachLane := by
  refine ⟨?formula, ?moves, ?table, ?twice⟩
  case formula =>
    intro pat before after w k hw hlo hhi
    exact Pattern.mirrorLane_of_widths hw hlo hhi
  case moves =>
    intro pat w be k hk
    have hlt := pat.mirrorLane_lt hk
    rw [lane_mirrorWord pat w hlt, enabled_mirrorLanes pat be hlt, pat.mirrorLane_mirrorLane]
    exact ⟨rfl, rfl⟩
  case table => decide
  case twice =>
    intro pat w be
    exact ⟨mirrorWord_mirrorWord pat w, mirrorLanes_mirrorLanes pat be⟩

end Sys2Proof.Machine
end

section
/-! PROOFS. The stamp word of a commit (R66): the successor of a generation and the two halves of a
stamp word as numbers, the generation that a commit burst has found, and the burst's last write. -/

namespace Sys2Proof.Machine

/-! ## The fields of a stamp word -/

/-- The successor of a generation as a number: short of 65,535 the sum does not wrap. -/
theorem successor_toNat (g : Count) :
    (successor g).toNat = if g.toNat = 65535 then 1 else g.toNat + 1 := by
  by_cases hlast : g = 65535
  · subst hlast
    rfl
  · have hne : g.toNat ≠ 65535 := fun h => hlast (BitVec.eq_of_toNat_eq h)
    have hlt : g.toNat + 1 < 2 ^ 16 := by omega
    rw [successor, if_neg hlast, if_neg hne, BitVec.toNat_add_of_lt hlt]
    rfl

/-- A word as a number: its high half counts in units of 65,536. -/
theorem ofHalves_eq_ofNat (high low : Count) :
    ofHalves high low = BitVec.ofNat 32 (low.toNat + high.toNat * 65536) := by
  refine BitVec.eq_of_toNat_eq ?_
  have hhigh := high.isLt
  have hlow := low.isLt
  rw [ofHalves, BitVec.toNat_append, ← Nat.shiftLeft_add_eq_or_of_lt hlow, Nat.shiftLeft_eq,
    BitVec.toNat_ofNat]
  omega

/-- A stamp word that port A writes is its generation, every other bit zero (R66, R178). -/
theorem stampWord_a (g : Count) : stampWord g .a = BitVec.ofNat 32 g.toNat := by
  simpa [stampWord] using ofHalves_eq_ofNat 0 g

/-- A stamp word that port B writes has the writer's bit beside its generation (R66, R178). -/
theorem stampWord_b (g : Count) : stampWord g .b = BitVec.ofNat 32 (g.toNat + 65536) := by
  simpa [stampWord] using ofHalves_eq_ofNat 1 g

/-! ## The generation a commit burst has found -/

/-- The low half of a word as a number. -/
theorem lowHalf_toNat (w : Word) : (lowHalf w).toNat = w.toNat % 65536 := by
  simp [lowHalf]

/-- The found generation is the low half of the first word a burst has read (R61). -/
theorem foundGeneration_of_stamp {spec : RecordSpec} {got : List Word} {found : Word}
    (hstamp : spec.stamp = true) (hfound : got.head? = some found) :
    foundGeneration spec got = lowHalf found := by
  obtain ⟨rest, rfl⟩ := List.head?_eq_some_iff.mp hfound
  simp [foundGeneration, hstamp]

/-! ## The last write of a commit burst -/

/-- The stamp word is the last write of a commit burst (R65). -/
theorem commitWrites_getLast?_of_stamp {spec : RecordSpec} (ses : Session) (p : Port)
    (got : List Word) (hstamp : spec.stamp = true) :
    (commitWrites spec ses p got).getLast?
      = some (writeAt ses.base (stampWord (successor (foundGeneration spec got)) p)) := by
  simp [commitWrites, newStamp, hstamp]

/-- Settles O25: the last write carries the successor of the found generation, with the writer's bit
by the committing port. -/
theorem stampWordOfACommit : Obligations.StampWordOfACommit := by
  intro spec ses p got found hstamp hfound g
  have hgen : (successor (foundGeneration spec got)).toNat = if g = 65535 then 1 else g + 1 := by
    rw [foundGeneration_of_stamp hstamp hfound, successor_toNat, lowHalf_toNat]
  rw [commitWrites_getLast?_of_stamp ses p got hstamp]
  cases p with
  | a => rw [stampWord_a, hgen]; rfl
  | b => rw [stampWord_b, hgen]; rfl

end Sys2Proof.Machine
end

section
/-! PROOFS. A notice received (R118, R120, R136): the resolved set and the counts ring by ring, and
what the Notice Unit does with a notice in each part state. -/

namespace Sys2Proof.Machine

/-! ## Counts, destination sets and lost notices, ring by ring -/

/-- A count that saturates, as a number (spec/00). -/
theorem satAdd_eq_min (x y : Count) :
    satAdd x y = BitVec.ofNat 16 (min 65535 (x.toNat + y.toNat)) := by
  unfold satAdd
  split
  next hfits =>
    rw [Nat.min_eq_right (by omega)]
    simp [BitVec.ofNat_add]
  next hover =>
    rw [Nat.min_eq_left (by omega)]
    rfl

/-- One more lost notice, saturated (R120, R136). -/
theorem satAdd_one (x : Count) : satAdd x 1 = BitVec.ofNat 16 (min 65535 (x.toNat + 1)) :=
  satAdd_eq_min x 1

/-- A ring is in the resolved set if it is in the set and the map configures it (R118). -/
theorem RecordMap.get_resolve_iff (m : RecordMap) (d : Both Bool) (q : Port) :
    (m.resolve d).get q = true ↔ d.get q = true ∧ (m.rings.get q).isSome = true := by
  cases q <;> exact Bool.and_eq_true_iff

theorem emptySet_iff (d : Both Bool) : emptySet d = true ↔ ∀ q, ¬ d.get q = true := by
  simp only [emptySet, Bool.and_eq_true, Bool.not_eq_true', Bool.not_eq_true]
  refine ⟨fun ⟨ha, hb⟩ q => ?_, fun h => ⟨h .a, h .b⟩⟩
  cases q with
  | a => exact ha
  | b => exact hb

/-- A lost notice is counted for each ring of its set (R120). -/
theorem State.countLost_rings_get (s : State) (d : Both Bool) (q : Port) :
    (s.countLost d).rings.get q
      = if d.get q = true then (s.rings.get q).countLost else s.rings.get q := by
  cases q <;> rfl

/-- A lost deferred notice is counted for each port of its set (R136). -/
theorem State.countDeferredLost_get (s : State) (d : Both Bool) (q : Port) :
    (s.countDeferredLost d).deferredLost.get q
      = if d.get q = true then satAdd (s.deferredLost.get q) 1 else s.deferredLost.get q := by
  cases q <;> rfl

theorem Ring.countLost_eq (r : Ring) :
    r.countLost
      = { r with plost := BitVec.ofNat 16 (min 65535 (r.plost.toNat + 1)), lrep := true } := by
  rw [Ring.countLost, satAdd_one]

/-! ## A notice received, by the part state and the room in the queue -/

/-- In BARE, and in a load from BARE, a notice is discarded (R118). -/
theorem State.raise_of_no_map {s : State} (r : Report) (hm : s.map = none) : s.raise r = s := by
  simp only [State.raise, hm]

/-- In LOADING a notice is queued deferred, its set unresolved (R136). -/
theorem State.raise_deferred {s : State} {m : RecordMap} (r : Report) (hm : s.map = some m)
    (hl : s.isLoading = true) (hroom : s.queue.length < 8) :
    s.raise r = s.enqueue (r.notice m s.timebase) r.dest true := by
  simp only [State.raise, hm, hl, Config.queueSlots, hroom, if_true]

/-- In LOADING a notice that finds the queue full is counted for later (R136). -/
theorem State.raise_deferred_full {s : State} {m : RecordMap} (r : Report) (hm : s.map = some m)
    (hl : s.isLoading = true) (hfull : 8 ≤ s.queue.length) :
    s.raise r = s.countDeferredLost r.dest := by
  simp only [State.raise, hm, hl, Config.queueSlots, Nat.not_lt.mpr hfull, if_true, if_false]

/-- Outside LOADING a notice for no configured ring is discarded (R118). -/
theorem State.raise_unresolved {s : State} {m : RecordMap} {r : Report} (hm : s.map = some m)
    (hl : s.isLoading = false) (hnone : ∀ q, ¬ (m.resolve r.dest).get q = true) :
    s.raise r = s := by
  have hempty := (emptySet_iff _).mpr hnone
  simp only [State.raise, hm, hl, hempty, Bool.false_eq_true, if_true, if_false]

/-- Outside LOADING a notice for a configured ring is queued with its resolved set (R119). -/
theorem State.raise_queued {s : State} {m : RecordMap} {r : Report} (hm : s.map = some m)
    (hl : s.isLoading = false) (hsome : ∃ q, (m.resolve r.dest).get q = true)
    (hroom : s.queue.length < 8) :
    s.raise r = s.enqueue (r.notice m s.timebase) (m.resolve r.dest) false := by
  have hset : ¬ emptySet (m.resolve r.dest) = true := by simpa [emptySet_iff] using hsome
  simp only [State.raise, hm, hl, hset, Config.queueSlots, hroom, Bool.false_eq_true, if_true,
    if_false]

/-- Outside LOADING a notice for a configured ring that finds the queue full is lost (R120). -/
theorem State.raise_lost {s : State} {m : RecordMap} {r : Report} (hm : s.map = some m)
    (hl : s.isLoading = false) (hsome : ∃ q, (m.resolve r.dest).get q = true)
    (hfull : 8 ≤ s.queue.length) :
    s.raise r = s.countLost (m.resolve r.dest) := by
  have hset : ¬ emptySet (m.resolve r.dest) = true := by simpa [emptySet_iff] using hsome
  simp only [State.raise, hm, hl, hset, Config.queueSlots, Nat.not_lt.mpr hfull,
    Bool.false_eq_true, if_false]

/-- Settles O36, by the map in force, the part state, the resolved set and the room in the queue. -/
theorem noticeIsReceived : Obligations.NoticeIsReceived := by
  intro s rep
  refine ⟨State.raise_of_no_map rep, fun m hm => ?_⟩
  intro n left entry add
  have hleft : ∀ q, (m.resolve rep.dest).get q = true ↔ left q := m.get_resolve_iff rep.dest
  have hsome : (∃ q, left q) → ∃ q, (m.resolve rep.dest).get q = true :=
    Exists.imp fun q => (hleft q).mpr
  refine ⟨fun hl => ⟨?discarded, ?queued, ?lost⟩, fun hl => ⟨?deferred, ?deferredLost⟩⟩
  case discarded =>
    exact fun hnone => State.raise_unresolved hm hl fun q => mt (hleft q).mp (hnone q)
  case queued =>
    exact fun hex hroom => ⟨_, hleft, State.raise_queued hm hl (hsome hex) hroom⟩
  case lost =>
    refine fun hex hfull =>
      ⟨(s.countLost (m.resolve rep.dest)).rings, fun q => ?_,
        State.raise_lost hm hl (hsome hex) hfull⟩
    rw [← hleft q, State.countLost_rings_get, Ring.countLost_eq]
    exact ⟨fun hin => if_pos hin, fun hout => if_neg hout⟩
  case deferred => exact State.raise_deferred rep hm hl
  case deferredLost =>
    refine fun hfull =>
      ⟨(s.countDeferredLost rep.dest).deferredLost, fun q => ?_,
        State.raise_deferred_full rep hm hl hfull⟩
    rw [State.countDeferredLost_get, satAdd_one]

end Sys2Proof.Machine
end

section
/-! PROOFS. The three forms of a notice burst at their ends (R125 to R127): what the answer leaves
alone, the head entry handled, the attention line evaluated afresh, and each command's next state. -/

namespace Sys2Proof.Machine

/-! ## What an answered operation leaves alone -/

@[simp] theorem State.answered_part (s : State) (w : WordAccess) (ans : Answer) :
    (s.answered w ans).part = s.part := by
  rw [State.answered, s.answer_frame]

@[simp] theorem State.answered_attn (s : State) (w : WordAccess) (ans : Answer) :
    (s.answered w ans).attn = s.attn := by
  rw [State.answered, s.answer_frame]

@[simp] theorem State.answered_rings (s : State) (w : WordAccess) (ans : Answer) :
    (s.answered w ans).rings = s.rings := by
  rw [State.answered, s.answer_frame]

@[simp] theorem State.answered_queue (s : State) (w : WordAccess) (ans : Answer) :
    (s.answered w ans).queue = s.queue := by
  rw [State.answered, s.answer_frame]

/-! ## The head entry and the attention line -/

/-- A ring handled for the head entry: the entry stays while its set has another ring not yet
handled (R119). -/
theorem handleHead_cons (q : Port) (e : QueueEntry) (es : List QueueEntry) :
    handleHead q (e :: es)
      = if e.dest.get q.other = true ∧ e.handled.get q.other = false
        then { e with handled := e.handled.set q true } :: es else es := by
  have hleaves : ((!e.dest.a || (e.handled.set q true).a)
      && (!e.dest.b || (e.handled.set q true).b)) = true
        ↔ ¬ (e.dest.get q.other = true ∧ e.handled.get q.other = false) := by
    cases q <;> simp [Both.get, Both.set, Port.other, imp_iff_not_or]
  simp only [handleHead, hleaves, ite_not]

/-- A ring meets a threshold by an unconsumed notice of that severity or more (R135). -/
theorem Ring.meets_iff (r : Ring) (thresh : Nat) :
    r.meets thresh = true ↔ ∃ sev, some sev ∈ r.shadow ∧ thresh ≤ sev.toNat := by
  rw [Ring.meets, List.any_eq_true]
  constructor
  · rintro ⟨slot, hmem, hslot⟩
    cases slot with
    | none => cases hslot
    | some sev => exact ⟨sev, hmem, of_decide_eq_true hslot⟩
  · rintro ⟨sev, hmem, hsev⟩
    exact ⟨some sev, hmem, decide_eq_true hsev⟩

/-- The attention line of a port whose ring is configured (R135). -/
theorem State.attention_iff {s : State} {m : RecordMap} {q : Port} {pl : RingPlace}
    (hm : s.map = some m) (hpl : m.rings.get q = some pl) :
    s.attention q = true
      ↔ ∃ sev, some sev ∈ (s.rings.get q).shadow ∧ (m.settings.get q).thresh ≤ sev.toNat := by
  simp only [State.attention, hm, hpl, Option.isSome_some, Bool.true_and, Ring.meets_iff]

theorem State.ringEntries_eq {s : State} {m : RecordMap} {q : Port} {pl : RingPlace}
    (hm : s.map = some m) (hpl : m.rings.get q = some pl) : s.ringEntries q = pl.cap.entries := by
  simp only [State.ringEntries, State.ringPlace, hm, hpl]

theorem State.headSeverity_cons {s : State} {e : QueueEntry} {es : List QueueEntry}
    (hq : s.queue = e :: es) : s.headSeverity = e.notice.severity := by
  simp only [State.headSeverity, hq]

/-! ## The end of each form of burst -/

section
variable {s : State} {g : Granted} {w : WordAccess} {q : Port} {carried : Count}

/-- An entry burst has ended (R125), before the next choice. -/
theorem exec_entryBurst (ans : Answer) (h : s.LastOnBus g w) (hop : g.op = .entry q carried) :
    exec (.entryBurstCompletes ans) s
      = .next ((((s.answered w ans).setRing q
          ((s.rings.get q).entered (s.ringEntries q) s.headSeverity w.data carried)).handled
            q).evaluateAttention q).chooseNotice := by
  change execEntryBurstCompletes ans s = _
  simp only [execEntryBurstCompletes, h.lastAccess, hop]
  rfl

/-- A full-ring burst has ended (R126), before the next choice. -/
theorem exec_fullRingBurst (ans : Answer) (h : s.LastOnBus g w)
    (hop : g.op = .fullRing q carried) :
    exec (.fullRingBurstCompletes ans) s
      = .next (((s.answered w ans).setRing q
          ((s.rings.get q).reported w.data carried)).handled q).chooseNotice := by
  change execFullRingBurstCompletes ans s = _
  simp only [execFullRingBurstCompletes, h.lastAccess, hop]
  rfl

/-- A loss report has ended (R127), before the next choice. -/
theorem exec_lossReport (ans : Answer) (h : s.LastOnBus g w)
    (hop : g.op = .lossReport q carried) :
    exec (.lossReportCompletes ans) s
      = .next ((s.answered w ans).setRing q
          ((s.rings.get q).reported w.data carried)).chooseNotice := by
  change execLossReportCompletes ans s = _
  simp only [execLossReportCompletes, h.lastAccess, hop]
  rfl

end

/-- A ring replaced and handled for the head entry, once the operation is answered. -/
theorem State.setRing_handled_answered {s : State} {e : QueueEntry} {es : List QueueEntry}
    (w : WordAccess) (ans : Answer) (q : Port) (r : Ring) (hq : s.queue = e :: es) :
    ((s.answered w ans).setRing q r).handled q
      = { s.answered w ans with
          rings := s.rings.set q r
          queue := if e.dest.get q.other = true ∧ e.handled.get q.other = false
            then { e with handled := e.handled.set q true } :: es else es } := by
  simp only [State.handled, State.setRing, State.answered_rings, State.answered_queue, hq,
    handleHead_cons]

/-- The attention line evaluated afresh once a configured ring is replaced: by that ring's SHADOW and
the threshold in force (R135). -/
theorem State.attention_handled_answered_iff {s : State} {m : RecordMap} {q : Port}
    {pl : RingPlace} (w : WordAccess) (ans : Answer) (r : Ring) (hm : s.map = some m)
    (hpl : m.rings.get q = some pl) :
    (((s.answered w ans).setRing q r).handled q).attention q = true
      ↔ ∃ sev, some sev ∈ r.shadow ∧ (m.settings.get q).thresh ≤ sev.toNat := by
  have hmap : (((s.answered w ans).setRing q r).handled q).map = some m := by
    simpa only [State.map, State.handled, State.setRing, State.answered_part] using hm
  have hring : (((s.answered w ans).setRing q r).handled q).rings.get q = r :=
    Both.get_set_self _ q r
  rw [State.attention_iff hmap hpl, hring]

/-- Settles O38: the entry burst, and the two forms that write the producer word alone. -/
theorem noticeBurstsEnd : Obligations.NoticeBurstsEnd := by
  refine ⟨?entry, ?producer⟩
  case entry =>
    intro ans s g w q carried m pl e es hbus hop hm hpl hq r sh
    refine ⟨_, ?_, State.attention_handled_answered_iff w ans
      (r.entered pl.cap.entries e.notice.severity w.data carried) hm hpl⟩
    rw [exec_entryBurst ans hbus hop, State.ringEntries_eq hm hpl, State.headSeverity_cons hq,
      State.evaluateAttention, State.setRing_handled_answered w ans q _ hq]
    simp only [State.answered_attn]
    rfl
  case producer =>
    intro ans s g w q carried hbus r reported
    constructor
    · intro e es hop hq
      rw [exec_fullRingBurst ans hbus hop, State.setRing_handled_answered w ans q _ hq]
      rfl
    · intro hop
      rw [exec_lossReport ans hbus hop, State.setRing, State.answered_rings]
      rfl

end Sys2Proof.Machine
end

section
/-! PROOFS. The OVERLAP test (R155): it compares every pair of extents, and two extents that each have
a word overlap exactly if one word lies in both. -/

namespace Sys2Proof.Machine

/-! ## The extents that are compared -/

/-- Every extent compared has a word, if every window has one: the IMAGE words are two, and a ring
region has its two header words. -/
theorem extents_pos {ib : WAddr} {windows : List Window} {rings : Both (Option RingPlace)}
    (hwindows : ∀ w ∈ windows, 0 < w.extent) {x : Nat × Nat} (hx : x ∈ extents ib windows rings) :
    0 < x.2 := by
  have hring : ∀ r : Option RingPlace, x ∈ ringExtent r → 0 < x.2 := by
    intro r hr
    cases r with
    | none => cases hr
    | some pl =>
      rw [ringExtent, List.mem_singleton] at hr
      subst hr
      exact Nat.add_pos_left Nat.two_pos _
  simp only [extents, List.mem_append, List.mem_cons, List.mem_map] at hx
  obtain ((rfl | ⟨w, hw, rfl⟩) | ha) | hb := hx
  · exact Nat.two_pos
  · exact hwindows w hw
  · exact hring rings.a ha
  · exact hring rings.b hb

/-! ## Two extents, and every pair of a list -/

/-- Two extents that have words share one exactly if some word lies in both: the later base is such
a word. -/
theorem share_iff {x y : Nat × Nat} (hx : 0 < x.2) (hy : 0 < y.2) :
    share x y = true ↔ ∃ k, (x.1 ≤ k ∧ k < x.1 + x.2) ∧ (y.1 ≤ k ∧ k < y.1 + y.2) := by
  rw [share, Bool.and_eq_true, decide_eq_true_iff, decide_eq_true_iff]
  constructor
  · intro h
    refine ⟨max x.1 y.1, ?_, ?_⟩ <;> omega
  · rintro ⟨k, hkx, hky⟩
    omega

/-- `disjoint` compares each extent with all that follow it. -/
theorem disjoint_iff_pairwise (l : List (Nat × Nat)) :
    disjoint l = true ↔ l.Pairwise fun x y => share x y = false := by
  induction l with
  | nil => simp [disjoint]
  | cons x xs ih => simp [disjoint, ih]

/-- A list of extents is not disjoint exactly if the extents at two positions share a word. -/
theorem not_disjoint_iff (l : List (Nat × Nat)) :
    ¬ disjoint l = true
      ↔ ∃ (i j : Nat) (x y : Nat × Nat),
          i < j ∧ l[i]? = some x ∧ l[j]? = some y ∧ share x y = true := by
  rw [disjoint_iff_pairwise, List.pairwise_iff_getElem]
  constructor
  · intro h
    push Not at h
    obtain ⟨i, j, hi, hj, hij, hshare⟩ := h
    exact ⟨i, j, l[i], l[j], hij, List.getElem?_eq_getElem hi, List.getElem?_eq_getElem hj,
      Bool.eq_true_of_not_eq_false hshare⟩
  · rintro ⟨i, j, x, y, hij, hx, hy, hshare⟩ h
    obtain ⟨hi, rfl⟩ := List.getElem?_eq_some_iff.mp hx
    obtain ⟨hj, rfl⟩ := List.getElem?_eq_some_iff.mp hy
    exact Bool.false_ne_true ((h i j hi hj hij).symm.trans hshare)

/-! ## What the test answers -/

section
variable (ib : WAddr) (ws : List Word) (settings : Both PortSettings) (windows : List Window)
  (layouts : List Layout) (rings : Both (Option RingPlace))

/-- Disjoint extents pass, with a map of the windows, layouts, settings and rings given. -/
theorem validateOverlap_passes (h : disjoint (extents ib windows rings) = true) :
    ∃ m, validateOverlap ib ws settings windows layouts rings = .passes m
      ∧ m.windows = windows ∧ m.layouts = layouts ∧ m.settings = settings ∧ m.rings = rings := by
  rw [validateOverlap, if_pos h]
  exact ⟨_, rfl, rfl, rfl, rfl, rfl⟩

/-- The test fails exactly if the extents are not disjoint. -/
theorem validateOverlap_fails_iff :
    validateOverlap ib ws settings windows layouts rings = .fails .overlap
      ↔ ¬ disjoint (extents ib windows rings) = true := by
  constructor
  · intro hfails hdisjoint
    obtain ⟨m, hpasses, -⟩ := validateOverlap_passes ib ws settings windows layouts rings hdisjoint
    cases hfails.symm.trans hpasses
  · intro h
    rw [validateOverlap, if_neg h]

end

/-- Settles O43: the test fails exactly if the extents at two positions share a word, and they are the
IMAGE words, the windows and the configured rings. -/
theorem overlapTestComparesEveryPair : Obligations.OverlapTestComparesEveryPair := by
  intro ib ws settings windows layouts rings hwindows region all
  have hregion : region = ringExtent := by
    funext r
    cases r <;> rfl
  have hall : all = extents ib windows rings := by
    simp only [all, hregion]
    rfl
  rw [hall, validateOverlap_fails_iff]
  constructor
  · rw [not_disjoint_iff]
    refine exists_congr fun i => exists_congr fun j => exists_congr fun x => exists_congr fun y => ?_
    simp only [exists_and_left]
    refine and_congr_right fun _ => and_congr_right fun hx => and_congr_right fun hy => ?_
    exact share_iff (extents_pos hwindows (List.mem_of_getElem? hx))
      (extents_pos hwindows (List.mem_of_getElem? hy))
  · intro hpass
    exact validateOverlap_passes ib ws settings windows layouts rings
      (not_not.mp (mt (validateOverlap_fails_iff ib ws settings windows layouts rings).mpr hpass))

end Sys2Proof.Machine
end

section
/-! PROOFS. What a step can do, said once: the operation carried for a port as a command finds it, the
effects of the 40 commands, and the grants that the arbiter can make. -/

namespace Sys2Proof.Machine

/-! ## The operation carried, as the meanings find it -/

theorem State.lastAccess_iff {s : State} {g : Granted} {w : WordAccess} :
    s.lastAccess = some (g, w) ↔ s.LastOnBus g w :=
  ⟨State.lastAccess_some, State.LastOnBus.lastAccess⟩

theorem State.presented_onBus {s : State} {g : Granted} {w : WordAccess}
    (h : s.presented = some (g, w)) : s.OnBus g w g.todo.tail := by
  obtain ⟨hg, hp, ws, ht⟩ := State.presented_some h
  exact ⟨hg, hp, by rw [ht]; rfl⟩

theorem State.memoryDue_overdue {s : State} {g : Granted} {w : WordAccess}
    (h : s.memoryDue = some (g, w)) : s.Overdue g w g.todo.tail := by
  unfold State.memoryDue at h
  split at h
  · cases h
  next g' hg =>
    split at h
    · cases h
    next w' ws ht =>
      split at h
      next hdue =>
        cases h
        exact ⟨hg, by rw [ht]; rfl, hdue⟩
      · cases h

theorem State.inFlight_carries {s : State} {p : Port} {acc : Access} {t : Option Taken} {job : Job}
    (h : s.inFlight p = some (acc, t, job)) : s.Carries p acc t job := by
  unfold State.inFlight at h
  split at h
  next he =>
    cases h
    exact he
  · cases h

theorem State.flight_carries {s : State} {p : Port} {acc : Access} {t : Taken} {job : Job}
    (h : s.flight p job = some (acc, t)) : s.Carries p acc (some t) job := by
  unfold State.flight at h
  split at h
  next hin =>
    split at h
    next hj =>
      cases h
      exact hj ▸ State.inFlight_carries hin
    · cases h
  · cases h

/-- The port's carried operation is this access's, for this session of its record. -/
def State.CarriesFor (s : State) (p : Port) (acc : Access) (t : Taken) (job : Job)
    (ses : Session) : Prop :=
  s.Carries p acc (some t) job
    ∧ (s.engines.get p).sessionOf t.recordOf.1 t.recordOf.2.1 = some ses

theorem State.sessionFlight_iff {s : State} {p : Port} {acc : Access} {t : Taken} {job : Job}
    {ses : Session} :
    s.sessionFlight p job = some (acc, t, ses) ↔ s.CarriesFor p acc t job ses := by
  constructor
  · intro h
    unfold State.sessionFlight at h
    split at h
    · cases h
    next hf =>
      split at h
      · cases h
      next hses =>
        cases h
        exact ⟨State.flight_carries hf, hses⟩
  · rintro ⟨hc, hses⟩
    simp only [State.sessionFlight, hc.flight, hses]

/-- The port's carried capture burst is this access's, for this capture of its record. -/
def State.CarriesCapture (s : State) (p : Port) (acc : Access) (t : Taken) (c : Capture) : Prop :=
  s.Carries p acc (some t) .capture
    ∧ (s.engines.get p).captureOf t.recordOf.1 t.recordOf.2.1 = some c

theorem State.captureFlight_iff {s : State} {p : Port} {acc : Access} {t : Taken} {c : Capture} :
    s.captureFlight p = some (acc, t, c) ↔ s.CarriesCapture p acc t c := by
  constructor
  · intro h
    unfold State.captureFlight at h
    split at h
    · cases h
    next hf =>
      split at h
      · cases h
      next hc =>
        cases h
        exact ⟨State.flight_carries hf, hc⟩
  · rintro ⟨hc, hcap⟩
    simp only [State.captureFlight, hc.flight, hcap]

/-! ## The effects of the commands -/

/-- The state that RESET leaves: the part as after RESET, and what lies outside it (R173, log entry 19). -/
def State.afterReset (s : State) : State :=
  { State.reset with
    pending := s.pending
    resetAsserted := true
    pins := { a := { s.pins.a with out := .quiet }, b := { s.pins.b with out := .quiet } }
    ackHigh := s.ackHigh
    straps := s.straps
    mem := s.cutOff.mem
    freeCount := s.cutOff.freeCount }

/-- The write that RESET cuts off changes memory and the count of free values alone. -/
theorem State.cutOff_frame (s : State) :
    s.cutOff = { s with mem := s.cutOff.mem, freeCount := s.cutOff.freeCount } := by
  unfold State.cutOff
  repeat' split
  · rfl
  · rfl
  · exact s.landCut_frame _

theorem exec_reset (s : State) : exec .reset s = .next s.afterReset := by
  change execReset s = _
  unfold execReset State.afterReset
  rw [s.cutOff_frame]
  rfl

/-- The state in which the straps have just been latched and the Timebase starts from 0. -/
def State.released (s : State) (st : Straps) : State :=
  { s with resetAsserted := false, straps := st, timebase := 0, refPeriods := 0 }

/-- What a command can leave of a state: one constructor for each way in which a command takes effect,
with what it has found; `stays` for a command whose event cannot take place (log entry 1). -/
inductive Effect (s : State) : Instr → State → Prop where
  | stays {c : Instr} (hc : accessOf c = none) : Effect s c s
  | reset : Effect s .reset s.afterReset
  | release {ib : BitVec 4} {io : ByteOrder} {ck : BitVec 2} (hr : s.resetAsserted = true) :
      Effect s (.resetRelease ib io ck)
        (s.released { imgBase := ib, imgOrd := io, ckSel := ck }).arriveBoth
  | strobe {p : Port} : Effect s (.strobeRelease p) (s.setPins p Pins.quiet)
  | tick (hr : s.resetAsserted = false) :
      Effect s .timebaseTick
        { s with timebase := s.timebase + 1, refPeriods := s.refPeriods + s.straps.periods }
  | stray {held : Bool} : Effect s (.strayAcknowledge held) { s with ackHigh := s.ackHigh || held }
  | ackReleased :
      Effect s .acknowledgeReleased
        { s with
          ackHigh := false
          granted := s.granted.map fun g => { g with presented := true } }
  | access {c : Instr} {p : Port} {l : Lines} (hc : accessOf c = some (p, l)) :
      Effect s c (s.present p l)
  | grant : Effect s .grant s.arbitrate.chooseNotice
  | word {ans : Answer} {g : Granted} {w w' : WordAccess} {ws : List WordAccess}
      (h : s.OnBus g w (w' :: ws)) (hop : ∀ p, g.op ≠ .commit p false) (got : List Word) :
      Effect s (.wordAccessCompletes ans)
        ((s.answer w ans).issue g.op (w' :: ws) (g.done + 1) got)
  | commitWord {c : Instr} {ans : Answer} {g : Granted} {w : WordAccess} {rest : List WordAccess}
      {p : Port} {acc : Access} {t : Taken} {ses : Session} (hc : accessOf c = none)
      (h : s.OnBus g w rest) (hop : g.op = .commit p false) (hf : s.CarriesFor p acc t .commit ses)
      (got : List Word) :
      Effect s c ((s.answer w ans).nextCommitAccess p ses rest (g.done + 1) got)
  | single {ans : Answer} {g : Granted} {w : WordAccess} {p : Port} {acc : Access}
      {t : Option Taken} {purpose : Purpose} (h : s.LastOnBus g w) (hop : g.op = .single p)
      (hf : s.Carries p acc t (.single purpose)) (hp : ∀ q n, purpose ≠ .watched q n) (word : Word) :
      Effect s (.singleOperationCompletes ans) ((s.answered w ans).endReady p acc word)
  | count {ans : Answer} {g : Granted} {w : WordAccess} {p q : Port} {acc : Access}
      {t : Option Taken} {n : Count} (h : s.LastOnBus g w) (hop : g.op = .single p)
      (hf : s.Carries p acc t (.single (.watched q n))) :
      Effect s (.consumerCountTaken ans) (((s.answered w ans).takeCount q n).endReady p acc 0)
  | request {ans : Answer} {gf : Bool} {entry : EntryOrder} {g : Granted} {w : WordAccess}
      {p : Port} {acc : Access} {t : Option Taken} {n : Nat} (h : s.LastOnBus g w)
      (hop : g.op = .single p) (hf : s.Carries p acc t (.single (.request n))) :
      Effect s (.requestWriteCompletes ans gf entry)
        (if s.isLoading = true then (s.answered w ans).endReady p acc 0
         else ((((s.answered w ans).endReady p acc 0).grantIf ans.grantFirst).beginLoad p n gf
            entry).chooseNotice)
  | stampRead {ans : Answer} {g : Granted} {w : WordAccess} {p : Port} {acc : Access} {t : Taken}
      {ses : Session} (h : s.LastOnBus g w) (hop : g.op = .stampRead p)
      (hf : s.CarriesFor p acc t .stampRead ses) (gen : Count) :
      Effect s (.stampReadCompletes ans)
        ((((s.answered w ans).stageWrite p acc t
          { ses with baseGen := some gen, opened := some s.timebase }
          t.recordOf.2.2.1).clearIfLoading p).chooseNotice)
  | stale {ans : Answer} {g : Granted} {w : WordAccess} {rest : List WordAccess} {p : Port}
      {acc : Access} {t : Taken} {ses : Session} (h : s.OnBus g w rest)
      (hop : g.op = .commit p false) (hf : s.CarriesFor p acc t .commit ses) (found : Count) :
      Effect s (.commitStampReadCompletes ans)
        ((s.answer w ans).endStale p acc ses found ans.grantFirst)
  | committed {ans : Answer} {g : Granted} {w : WordAccess} {p : Port} {acc : Access} {t : Taken}
      {ses : Session} (h : s.LastOnBus g w) (hop : g.op = .commit p true)
      (hf : s.CarriesFor p acc t .commit ses) :
      Effect s (.commitBurstCompletes ans)
        ((((s.answered w ans).healTorn ses.base ses.window).freeSession p ses.window
          ses.record).endReady p acc 0)
  | captured {ans : Answer} {g : Granted} {w : WordAccess} {p : Port} {acc : Access} {t : Taken}
      {c : Capture} (h : s.LastOnBus g w) (hop : g.op = .capture p)
      (hf : s.CarriesCapture p acc t c) (words : List Word) :
      Effect s (.captureBurstCompletes ans)
        ((((s.answered w ans).fillCapture p acc t c words).clearIfLoading p).chooseAfter
          ans.grantFirst)
  | entryBurst {ans : Answer} {g : Granted} {w : WordAccess} {q : Port} {carried : Count}
      (h : s.LastOnBus g w) (hop : g.op = .entry q carried) :
      Effect s (.entryBurstCompletes ans)
        ((((s.answered w ans).setRing q
          ((s.rings.get q).entered (s.ringEntries q) s.headSeverity w.data carried)).handled
            q).evaluateAttention q).chooseNotice
  | fullRingBurst {ans : Answer} {g : Granted} {w : WordAccess} {q : Port} {carried : Count}
      (h : s.LastOnBus g w) (hop : g.op = .fullRing q carried) :
      Effect s (.fullRingBurstCompletes ans)
        (((s.answered w ans).setRing q
          ((s.rings.get q).reported w.data carried)).handled q).chooseNotice
  | lossReport {ans : Answer} {g : Granted} {w : WordAccess} {q : Port} {carried : Count}
      (h : s.LastOnBus g w) (hop : g.op = .lossReport q carried) :
      Effect s (.lossReportCompletes ans)
        ((s.answered w ans).setRing q ((s.rings.get q).reported w.data carried)).chooseNotice
  | inProgress {ans : Answer} {g : Granted} {w : WordAccess} {ld : Load} (h : s.LastOnBus g w)
      (hop : g.op = .status) (hl : s.part = .loading ld) :
      Effect s (.inProgressWriteCompletes ans) ((s.answered w ans).toPhase ld .draining)
  | drained {ld : Load} (hl : s.part = .loading ld) :
      Effect s .drained { s.toPhase ld .reading with loaderClaim := some .imageRead }
  | imageRead {ans : Answer} {g : Granted} {w : WordAccess} {ld : Load} (h : s.LastOnBus g w)
      (hop : g.op = .imageRead) (hl : s.part = .loading ld) (raw : List Word) :
      Effect s (.imageReadCompletes ans)
        ((s.answered w ans).applyVerdict ld (validate s.straps ld.reqN raw))
  | header {ans : Answer} {g : Granted} {w : WordAccess} {q : Port} {ld : Load} {cand : RecordMap}
      (h : s.LastOnBus g w) (hop : g.op = .ringHeader q) (hl : s.part = .loading ld) :
      Effect s (.ringHeaderWriteCompletes ans) ((s.answered w ans).claimAfterHeader cand q)
  | done {ans : Answer} {order : EndOrder} {g : Granted} {w : WordAccess} {ld : Load}
      {cand : RecordMap} (h : s.LastOnBus g w) (hop : g.op = .status) (hl : s.part = .loading ld)
      (hph : ld.phase = .installing cand) :
      Effect s (.doneWriteCompletes ans order)
        (((s.answered w ans).install cand).endLoad ld order)
  | failed {ans : Answer} {order : EndOrder} {g : Granted} {w : WordAccess} {ld : Load}
      (h : s.LastOnBus g w) (hop : g.op = .status) (hl : s.part = .loading ld) :
      Effect s (.failureStatusWriteEnds (.completes ans) order)
        (((s.answered w ans).grantIf order.grantAtEnd).endFailed ld order)
  | failedLate {order : EndOrder} {g : Granted} {w : WordAccess} {rest : List WordAccess}
      {ld : Load} (h : s.Overdue g w rest) (hop : g.op = .status) (hl : s.part = .loading ld) :
      Effect s (.failureStatusWriteEnds .expires order)
        (((s.expired w).grantIf order.grantAtEnd).endFailed ld order)
  | expires {order : EndOrder} {g : Granted} {w : WordAccess} {rest : List WordAccess}
      (h : s.Overdue g w rest) :
      Effect s (.memoryLimitExpires order) ((s.expired w).expire g w order)
  | hold {p : Port} {t : State} {r : Report} (h : s.holdExpiry p = some (t, r)) :
      Effect s (.holdLimitExpires p) (t.raise r).chooseNotice
  | session {p : Port} {w k : Nat} {t : State} {r : Report}
      (h : s.sessionExpiry p w k = some (t, r)) :
      Effect s (.sessionLimitExpires p w k) (t.raise r).chooseNotice
  | captureLimit {p : Port} {w k : Nat} :
      Effect s (.captureLimitExpires p w k) (s.freeCapture p w k)

end Sys2Proof.Machine
end

section
/-! PROOFS. Every command takes effect in one of the ways of `Effect`: its meaning read once. -/

namespace Sys2Proof.Machine

/-! ## The lines -/

theorem effect_resetRelease {ib : BitVec 4} {io : ByteOrder} {ck : BitVec 2} {s t : State}
    (h : exec (.resetRelease ib io ck) s = .next t) : Effect s (.resetRelease ib io ck) t := by
  change execResetRelease ib io ck s = _ at h
  unfold execResetRelease at h
  split at h <;> cases h
  next hr => exact .release hr
  next => exact .stays rfl

theorem effect_strobeRelease {p : Port} {s t : State} (h : exec (.strobeRelease p) s = .next t) :
    Effect s (.strobeRelease p) t := by
  change execStrobeRelease p s = _ at h
  unfold execStrobeRelease at h
  split at h <;> cases h
  · exact .strobe
  · exact .stays rfl

theorem effect_timebaseTick {s t : State} (h : exec .timebaseTick s = .next t) :
    Effect s .timebaseTick t := by
  change execTimebaseTick s = _ at h
  unfold execTimebaseTick at h
  split at h <;> cases h
  next => exact .stays rfl
  next hr => exact .tick (Bool.eq_false_iff.mpr hr)

theorem effect_strayAcknowledge {held : Bool} {s t : State}
    (h : exec (.strayAcknowledge held) s = .next t) : Effect s (.strayAcknowledge held) t := by
  change execStrayAcknowledge held s = _ at h
  unfold execStrayAcknowledge at h
  split at h <;> cases h
  · exact .stays rfl
  · exact .stray

theorem effect_acknowledgeReleased {s t : State} (h : exec .acknowledgeReleased s = .next t) :
    Effect s .acknowledgeReleased t := by
  have hE := Effect.ackReleased (s := s)
  change execAcknowledgeReleased s = _ at h
  unfold execAcknowledgeReleased at h
  split at h <;> cases h
  next hg =>
    rw [hg] at hE ⊢
    exact hE
  next g hg =>
    rw [hg] at hE
    exact hE

/-! ## The word accesses and the single operations -/

theorem effect_wordAccessCompletes {ans : Answer} {s t : State}
    (h : exec (.wordAccessCompletes ans) s = .next t) : Effect s (.wordAccessCompletes ans) t := by
  change execWordAccessCompletes ans s = _ at h
  unfold execWordAccessCompletes at h
  split at h
  · cases h; exact .stays rfl
  next g w hp =>
    have hbus := State.presented_onBus hp
    dsimp only at h
    split at h
    next p hop =>
      split at h
      · cases h; exact .stays rfl
      next hf =>
        split at h <;> cases h
        · exact .stays rfl
        · exact .commitWord rfl hbus hop (State.sessionFlight_iff.mp hf) _
    · cases h; exact .stays rfl
    next w' ws hrest hop =>
      cases h
      rw [hrest] at hbus
      exact .word hbus (fun p hop' => hop p hop') _

theorem effect_singleOperationCompletes {ans : Answer} {s t : State}
    (h : exec (.singleOperationCompletes ans) s = .next t) :
    Effect s (.singleOperationCompletes ans) t := by
  change execSingleOperationCompletes ans s = _ at h
  unfold execSingleOperationCompletes at h
  split at h
  · cases h; exact .stays rfl
  next g w hl =>
    dsimp only at h
    split at h
    next p hop =>
      split at h <;> cases h
      next hf =>
        exact .single (State.lastAccess_iff.mp hl) hop (State.inFlight_carries hf)
          (fun _ _ => nofun) _
      next hf =>
        exact .single (State.lastAccess_iff.mp hl) hop (State.inFlight_carries hf)
          (fun _ _ => nofun) _
      next => exact .stays rfl
    · cases h; exact .stays rfl

theorem effect_consumerCountTaken {ans : Answer} {s t : State}
    (h : exec (.consumerCountTaken ans) s = .next t) : Effect s (.consumerCountTaken ans) t := by
  change execConsumerCountTaken ans s = _ at h
  unfold execConsumerCountTaken at h
  split at h
  · cases h; exact .stays rfl
  next g w hl =>
    split at h
    next p hop =>
      split at h <;> cases h
      next hf => exact .count (State.lastAccess_iff.mp hl) hop (State.inFlight_carries hf)
      next => exact .stays rfl
    · cases h; exact .stays rfl

theorem effect_requestWriteCompletes {ans : Answer} {gf : Bool} {entry : EntryOrder} {s t : State}
    (h : exec (.requestWriteCompletes ans gf entry) s = .next t) :
    Effect s (.requestWriteCompletes ans gf entry) t := by
  change execRequestWriteCompletes ans gf entry s = _ at h
  unfold execRequestWriteCompletes at h
  split at h
  · cases h; exact .stays rfl
  next g w hl =>
    split at h
    next p hop =>
      split at h
      next hf =>
        have hE := Effect.request (ans := ans) (gf := gf) (entry := entry)
          (State.lastAccess_iff.mp hl) hop (State.inFlight_carries hf)
        dsimp only at h
        split at h
        next hload =>
          cases h
          rwa [if_pos hload] at hE
        next hload =>
          cases h
          rwa [if_neg hload] at hE
      · cases h; exact .stays rfl
    · cases h; exact .stays rfl

/-! ## Sessions and captures -/

theorem effect_stampReadCompletes {ans : Answer} {s t : State}
    (h : exec (.stampReadCompletes ans) s = .next t) : Effect s (.stampReadCompletes ans) t := by
  change execStampReadCompletes ans s = _ at h
  unfold execStampReadCompletes at h
  split at h
  · cases h; exact .stays rfl
  next g w hl =>
    split at h
    next p hop =>
      split at h <;> cases h
      next => exact .stays rfl
      next hf =>
        exact .stampRead (State.lastAccess_iff.mp hl) hop (State.sessionFlight_iff.mp hf) _
    · cases h; exact .stays rfl

theorem effect_commitStampReadCompletes {ans : Answer} {s t : State}
    (h : exec (.commitStampReadCompletes ans) s = .next t) :
    Effect s (.commitStampReadCompletes ans) t := by
  change execCommitStampReadCompletes ans s = _ at h
  unfold execCommitStampReadCompletes at h
  split at h
  · cases h; exact .stays rfl
  next g w hp =>
    have hbus := State.presented_onBus hp
    split at h
    next p hop =>
      split at h
      · cases h; exact .stays rfl
      next hf =>
        have hf' := State.sessionFlight_iff.mp hf
        dsimp only at h
        split at h
        · split at h <;> cases h
          · exact .stale hbus hop hf' _
          · exact .commitWord rfl hbus hop hf' _
        · cases h; exact .stays rfl
    · cases h; exact .stays rfl

theorem effect_commitBurstCompletes {ans : Answer} {s t : State}
    (h : exec (.commitBurstCompletes ans) s = .next t) :
    Effect s (.commitBurstCompletes ans) t := by
  change execCommitBurstCompletes ans s = _ at h
  unfold execCommitBurstCompletes at h
  split at h
  · cases h; exact .stays rfl
  next g w hl =>
    split at h
    next p hop =>
      split at h <;> cases h
      next => exact .stays rfl
      next hf => exact .committed (State.lastAccess_iff.mp hl) hop (State.sessionFlight_iff.mp hf)
    · cases h; exact .stays rfl

theorem effect_captureBurstCompletes {ans : Answer} {s t : State}
    (h : exec (.captureBurstCompletes ans) s = .next t) :
    Effect s (.captureBurstCompletes ans) t := by
  change execCaptureBurstCompletes ans s = _ at h
  unfold execCaptureBurstCompletes at h
  split at h
  · cases h; exact .stays rfl
  next g w hl =>
    split at h
    next p hop =>
      split at h <;> cases h
      next => exact .stays rfl
      next hf =>
        exact .captured (State.lastAccess_iff.mp hl) hop (State.captureFlight_iff.mp hf) _
    · cases h; exact .stays rfl

/-! ## Notice bursts -/

theorem effect_entryBurstCompletes {ans : Answer} {s t : State}
    (h : exec (.entryBurstCompletes ans) s = .next t) : Effect s (.entryBurstCompletes ans) t := by
  have h' := h
  change execEntryBurstCompletes ans s = _ at h
  unfold execEntryBurstCompletes at h
  split at h
  · cases h; exact .stays rfl
  next g w hl =>
    split at h
    next q carried hop =>
      have hbus := State.lastAccess_iff.mp hl
      rw [exec_entryBurst ans hbus hop] at h'
      cases h'
      exact .entryBurst hbus hop
    · cases h; exact .stays rfl

theorem effect_fullRingBurstCompletes {ans : Answer} {s t : State}
    (h : exec (.fullRingBurstCompletes ans) s = .next t) :
    Effect s (.fullRingBurstCompletes ans) t := by
  have h' := h
  change execFullRingBurstCompletes ans s = _ at h
  unfold execFullRingBurstCompletes at h
  split at h
  · cases h; exact .stays rfl
  next g w hl =>
    split at h
    next q carried hop =>
      have hbus := State.lastAccess_iff.mp hl
      rw [exec_fullRingBurst ans hbus hop] at h'
      cases h'
      exact .fullRingBurst hbus hop
    · cases h; exact .stays rfl

theorem effect_lossReportCompletes {ans : Answer} {s t : State}
    (h : exec (.lossReportCompletes ans) s = .next t) : Effect s (.lossReportCompletes ans) t := by
  have h' := h
  change execLossReportCompletes ans s = _ at h
  unfold execLossReportCompletes at h
  split at h
  · cases h; exact .stays rfl
  next g w hl =>
    split at h
    next q carried hop =>
      have hbus := State.lastAccess_iff.mp hl
      rw [exec_lossReport ans hbus hop] at h'
      cases h'
      exact .lossReport hbus hop
    · cases h; exact .stays rfl

/-! ## Loads -/

theorem effect_inProgressWriteCompletes {ans : Answer} {s t : State}
    (h : exec (.inProgressWriteCompletes ans) s = .next t) :
    Effect s (.inProgressWriteCompletes ans) t := by
  change execInProgressWriteCompletes ans s = _ at h
  unfold execInProgressWriteCompletes at h
  split at h
  · cases h; exact .stays rfl
  next g w hl =>
    split at h
    next ld hop hpart =>
      split at h <;> cases h
      · exact .inProgress (State.lastAccess_iff.mp hl) hop hpart
      · exact .stays rfl
    · cases h; exact .stays rfl

theorem effect_drained {s t : State} (h : exec .drained s = .next t) : Effect s .drained t := by
  change execDrained s = _ at h
  unfold execDrained at h
  split at h
  next ld hpart =>
    split at h
    · split at h <;> cases h
      · exact .drained hpart
      · exact .stays rfl
    · cases h; exact .stays rfl
  · cases h; exact .stays rfl

theorem effect_imageReadCompletes {ans : Answer} {s t : State}
    (h : exec (.imageReadCompletes ans) s = .next t) : Effect s (.imageReadCompletes ans) t := by
  change execImageReadCompletes ans s = _ at h
  unfold execImageReadCompletes at h
  split at h
  · cases h; exact .stays rfl
  next g w hl =>
    split at h
    next ld hop hpart =>
      split at h <;> cases h
      · exact .imageRead (State.lastAccess_iff.mp hl) hop hpart _
      · exact .stays rfl
    · cases h; exact .stays rfl

theorem effect_ringHeaderWriteCompletes {ans : Answer} {s t : State}
    (h : exec (.ringHeaderWriteCompletes ans) s = .next t) :
    Effect s (.ringHeaderWriteCompletes ans) t := by
  change execRingHeaderWriteCompletes ans s = _ at h
  unfold execRingHeaderWriteCompletes at h
  split at h
  · cases h; exact .stays rfl
  next g w hl =>
    split at h
    next q ld hop hpart =>
      split at h <;> cases h
      · exact .header (State.lastAccess_iff.mp hl) hop hpart
      · exact .stays rfl
    · cases h; exact .stays rfl

theorem effect_doneWriteCompletes {ans : Answer} {order : EndOrder} {s t : State}
    (h : exec (.doneWriteCompletes ans order) s = .next t) :
    Effect s (.doneWriteCompletes ans order) t := by
  change execDoneWriteCompletes ans order s = _ at h
  unfold execDoneWriteCompletes at h
  split at h
  · cases h; exact .stays rfl
  next g w hl =>
    split at h
    next ld hop hpart =>
      split at h <;> cases h
      next hph => exact .done (State.lastAccess_iff.mp hl) hop hpart hph
      next => exact .stays rfl
    · cases h; exact .stays rfl

theorem effect_failureStatusWriteEnds {how : WriteEnd} {order : EndOrder} {s t : State}
    (h : exec (.failureStatusWriteEnds how order) s = .next t) :
    Effect s (.failureStatusWriteEnds how order) t := by
  change execFailureStatusWriteEnds how order s = _ at h
  unfold execFailureStatusWriteEnds at h
  split at h
  next ld hpart =>
    split at h
    next s1 _ hend =>
      cases h
      unfold State.reportingEnd at hend
      split at hend
      next ans =>
        split at hend
        · cases hend
        next g w hl =>
          split at hend
          next hop =>
            cases hend
            exact .failed (State.lastAccess_iff.mp hl) hop hpart
          · cases hend
      next =>
        split at hend
        · cases hend
        next g w hdue =>
          split at hend
          next hop =>
            cases hend
            exact .failedLate (State.memoryDue_overdue hdue) hop.1 hpart
          · cases hend
    · cases h; exact .stays rfl
  · cases h; exact .stays rfl

/-! ## Expiries -/

theorem effect_memoryLimitExpires {order : EndOrder} {s t : State}
    (h : exec (.memoryLimitExpires order) s = .next t) :
    Effect s (.memoryLimitExpires order) t := by
  change execMemoryLimitExpires order s = _ at h
  unfold execMemoryLimitExpires at h
  split at h <;> cases h
  next => exact .stays rfl
  next g w hdue => exact .expires (State.memoryDue_overdue hdue)

theorem effect_holdLimitExpires {p : Port} {s t : State}
    (h : exec (.holdLimitExpires p) s = .next t) : Effect s (.holdLimitExpires p) t := by
  change execHoldLimitExpires p s = _ at h
  unfold execHoldLimitExpires State.expireNow at h
  split at h <;> cases h
  next => exact .stays rfl
  next hx => exact .hold hx

theorem effect_sessionLimitExpires {p : Port} {w k : Nat} {s t : State}
    (h : exec (.sessionLimitExpires p w k) s = .next t) :
    Effect s (.sessionLimitExpires p w k) t := by
  change execSessionLimitExpires p w k s = _ at h
  unfold execSessionLimitExpires State.expireNow at h
  split at h <;> cases h
  next => exact .stays rfl
  next hx => exact .session hx

theorem effect_captureLimitExpires {p : Port} {w k : Nat} {s t : State}
    (h : exec (.captureLimitExpires p w k) s = .next t) :
    Effect s (.captureLimitExpires p w k) t := by
  change execCaptureLimitExpires p w k s = _ at h
  unfold execCaptureLimitExpires at h
  split at h
  · cases h; exact .stays rfl
  · split at h
    · cases h; exact .stays rfl
    · split at h <;> cases h
      · exact .captureLimit
      · exact .stays rfl

/-! ## The inversion -/

/-- A command that answers a state takes effect in one of the ways of `Effect`. -/
theorem exec_effect {c : Instr} {s t : State} (h : exec c s = .next t) : Effect s c t := by
  cases c with
  | reset =>
    rw [exec_reset] at h
    cases h
    exact .reset
  | resetRelease ib io ck => exact effect_resetRelease h
  | strobeRelease p => exact effect_strobeRelease h
  | grant => cases h; exact .grant
  | wordAccessCompletes ans => exact effect_wordAccessCompletes h
  | singleOperationCompletes ans => exact effect_singleOperationCompletes h
  | consumerCountTaken ans => exact effect_consumerCountTaken h
  | requestWriteCompletes ans gf entry => exact effect_requestWriteCompletes h
  | stampReadCompletes ans => exact effect_stampReadCompletes h
  | commitStampReadCompletes ans => exact effect_commitStampReadCompletes h
  | commitBurstCompletes ans => exact effect_commitBurstCompletes h
  | captureBurstCompletes ans => exact effect_captureBurstCompletes h
  | entryBurstCompletes ans => exact effect_entryBurstCompletes h
  | fullRingBurstCompletes ans => exact effect_fullRingBurstCompletes h
  | lossReportCompletes ans => exact effect_lossReportCompletes h
  | inProgressWriteCompletes ans => exact effect_inProgressWriteCompletes h
  | drained => exact effect_drained h
  | imageReadCompletes ans => exact effect_imageReadCompletes h
  | ringHeaderWriteCompletes ans => exact effect_ringHeaderWriteCompletes h
  | doneWriteCompletes ans order => exact effect_doneWriteCompletes h
  | failureStatusWriteEnds how order => exact effect_failureStatusWriteEnds h
  | memoryLimitExpires order => exact effect_memoryLimitExpires h
  | strayAcknowledge held => exact effect_strayAcknowledge h
  | holdLimitExpires p => exact effect_holdLimitExpires h
  | sessionLimitExpires p w k => exact effect_sessionLimitExpires h
  | captureLimitExpires p w k => exact effect_captureLimitExpires h
  | timebaseTick => exact effect_timebaseTick h
  | acknowledgeReleased => exact effect_acknowledgeReleased h
  | accessInBare | heldAccess | nullAccess | recordWrite | recordRead | plainAccess
  | unmappedAccess | ringAccess | consumerWordWrite | requestWordWrite | imageWordWrite
  | imageWordRead =>
    cases h
    exact .access rfl

/-- A step idles on an empty queue, or its front command takes effect on the state with the rest. -/
theorem step_effect {s t : State} (h : step s = .next t) :
    t = s ∨ ∃ c rest, s.pending = c :: rest ∧ Effect { s with pending := rest } c t := by
  unfold step at h
  split at h
  · cases h
    exact .inl rfl
  next c rest hp => exact .inr ⟨c, rest, hp, exec_effect h⟩

end Sys2Proof.Machine
end

section
/-! PROOFS. The grants the arbiter can make, the choice beside an arriving access among them, and how a
property that the shared operations keep is kept by all that is made of them. -/

namespace Sys2Proof.Machine

/-! ## One engine's ESTATE -/

@[simp] theorem State.setEState_setEState (s : State) (p : Port) (e e' : EState) :
    (s.setEState p e).setEState p e' = s.setEState p e' := by
  simp [State.setEState, State.setEngine]

theorem State.setEState_self {s : State} {p : Port} {e : EState}
    (h : (s.engines.get p).estate = e) : s.setEState p e = s := by
  subst h
  change { s with engines := s.engines.set p (s.engines.get p) } = s
  rw [Both.set_get]

theorem Engine.waiting_iff {e : Engine} :
    e.waiting = true ↔ ∃ acc t job, e.estate = .inMemory acc t job .waiting := by
  unfold Engine.waiting
  split
  next he => exact ⟨fun _ => ⟨_, _, _, he⟩, fun _ => rfl⟩
  next hn => exact ⟨nofun, fun ⟨_, _, _, he⟩ => absurd he (hn _ _ _)⟩

/-! ## The form of a notice burst, fixed at its grant (R124, R126, R127) -/

section
variable {s : State} {q : Port} {pl : RingPlace}

theorem State.startNotice_lossReport (hpl : s.ringPlace q = some pl) :
    s.startNotice (.lossReport q)
      = s.issue (.lossReport q (s.rings.get q).plost) (producerWrite pl (s.rings.get q)) 0 [] := by
  simp only [State.startNotice, hpl]

theorem State.startNotice_lossReport_none (hpl : s.ringPlace q = none) :
    s.startNotice (.lossReport q) = s := by
  simp only [State.startNotice, hpl]

theorem State.startNotice_head_none (h : s.ringPlace q = none ∨ s.queue = []) :
    s.startNotice (.head q) = s := by
  unfold State.startNotice
  dsimp only
  split
  next hpl hq =>
    rw [hpl, hq] at h
    cases h <;> contradiction
  · rfl

theorem State.startNotice_entry {e : QueueEntry} {es : List QueueEntry}
    (hpl : s.ringPlace q = some pl) (hq : s.queue = e :: es)
    (hroom : (s.rings.get q).hasRoom pl.cap.entries = true) :
    s.startNotice (.head q)
      = s.issue (.entry q (s.rings.get q).plost) (entryWrites pl (s.rings.get q) e.notice) 0 [] := by
  simp only [State.startNotice, hpl, hq, hroom, if_true]

/-- The ring with one more notice lost for want of room in it (R126). -/
def Ring.plusLost (r : Ring) : Ring := { r with plost := satAdd r.plost 1 }

theorem State.startNotice_fullRing {e : QueueEntry} {es : List QueueEntry}
    (hpl : s.ringPlace q = some pl) (hq : s.queue = e :: es)
    (hroom : ¬ (s.rings.get q).hasRoom pl.cap.entries = true) :
    s.startNotice (.head q)
      = (s.setRing q (s.rings.get q).plusLost).issue (.fullRing q (s.rings.get q).plusLost.plost)
          (producerWrite pl (s.rings.get q).plusLost) 0 [] := by
  simp only [State.startNotice, hpl, hq, hroom]
  rfl

end

/-! ## What a grant can leave -/

/-- What the arbiter can leave of a state: nothing granted, or one waiting claim granted while no
operation is carried (R99). Which claim, and what POINTER becomes, is left open here. -/
inductive State.Grants (s : State) : State → Prop where
  | nothing : s.Grants s
  | loader {c : LoaderClaim} (hg : s.granted = none) (hc : s.loaderClaim = some c) :
      s.Grants ({ s with loaderClaim := none }.startLoader c)
  | port {p : Port} {acc : Access} {t : Option Taken} {job : Job} (x : Rotor)
      (hg : s.granted = none) (he : (s.engines.get p).estate = .inMemory acc t job .waiting) :
      s.Grants ({ s with pointer := x }.startPort p)
  | notice {c : NoticeClaim} (x : Rotor) (hg : s.granted = none) (hc : s.noticeClaim = some c) :
      s.Grants ({ s with pointer := x, noticeClaim := none }.startNotice c)

theorem State.startRotor_grants {s : State} {r : Rotor} (hg : s.granted = none)
    (hw : s.waits r = true) : s.Grants (s.startRotor r) := by
  cases r with
  | a =>
    obtain ⟨acc, t, job, he⟩ := Engine.waiting_iff.mp hw
    exact .port (p := .a) _ hg he
  | b =>
    obtain ⟨acc, t, job, he⟩ := Engine.waiting_iff.mp hw
    exact .port (p := .b) _ hg he
  | notice =>
    obtain ⟨c, hc⟩ := Option.isSome_iff_exists.mp hw
    have hr : s.startRotor .notice
        = { s with pointer := Rotor.notice.next, noticeClaim := none }.startNotice c := by
      simp only [State.startRotor, hc]
    rw [hr]
    exact .notice _ hg hc

/-- The rotation picks a claimant that waits. -/
theorem State.waits_of_rotate {s : State} {r : Rotor} (h : s.rotate = some r) :
    s.waits r = true := by
  unfold State.rotate at h
  repeat' split at h
  all_goals first | cases h; assumption | cases h

theorem State.arbitrate_of_granted {s : State} {g : Granted} (h : s.granted = some g) :
    s.arbitrate = s := by
  simp only [State.arbitrate, h]

theorem State.arbitrate_of_loader {s : State} {c : LoaderClaim} (hg : s.granted = none)
    (hc : s.loaderClaim = some c) : s.arbitrate = { s with loaderClaim := none }.startLoader c := by
  simp only [State.arbitrate, hg, hc]

theorem State.arbitrate_of_rotate {s : State} {r : Rotor} (hg : s.granted = none)
    (hc : s.loaderClaim = none) (hr : s.rotate = some r) : s.arbitrate = s.startRotor r := by
  simp only [State.arbitrate, hg, hc, hr]

theorem State.arbitrate_of_no_claim {s : State} (hc : s.loaderClaim = none)
    (hr : s.rotate = none) : s.arbitrate = s := by
  cases hg : s.granted <;> simp only [State.arbitrate, hg, hc, hr]

theorem State.arbitrate_grants (s : State) : s.Grants s.arbitrate := by
  cases hg : s.granted with
  | some g =>
    rw [State.arbitrate_of_granted hg]
    exact .nothing
  | none =>
    cases hc : s.loaderClaim with
    | some c =>
      rw [State.arbitrate_of_loader hg hc]
      exact .loader hg hc
    | none =>
      cases hr : s.rotate with
      | none =>
        rw [State.arbitrate_of_no_claim hc hr]
        exact .nothing
      | some r =>
        rw [State.arbitrate_of_rotate hg hc hr]
        exact State.startRotor_grants hg (State.waits_of_rotate hr)

/-! ## A grant while one engine's claim is out of sight -/

theorem State.startLoader_setEState (s : State) (p : Port) (e : EState) (c : LoaderClaim) :
    (s.setEState p e).startLoader c = (s.startLoader c).setEState p e := by
  cases c with
  | status word => rfl
  | imageRead =>
    unfold State.startLoader
    simp only [State.setEState_part]
    split <;> rfl
  | ringHeader q =>
    unfold State.startLoader
    simp only [State.setEState_part]
    split
    · split <;> rfl
    · rfl

theorem State.startNotice_setEState (s : State) (p : Port) (e : EState) (c : NoticeClaim) :
    (s.setEState p e).startNotice c = (s.startNotice c).setEState p e := by
  cases c with
  | lossReport q =>
    cases hpl : s.ringPlace q with
    | none => rw [State.startNotice_lossReport_none (s := s.setEState p e) hpl,
          State.startNotice_lossReport_none hpl]
    | some pl =>
      rw [State.startNotice_lossReport (s := s.setEState p e) hpl,
          State.startNotice_lossReport hpl]
      rfl
  | head q =>
    cases hpl : s.ringPlace q with
    | none => rw [State.startNotice_head_none (s := s.setEState p e) (.inl hpl),
          State.startNotice_head_none (.inl hpl)]
    | some pl =>
      cases hq : s.queue with
      | nil => rw [State.startNotice_head_none (s := s.setEState p e) (.inr hq),
          State.startNotice_head_none (.inr hq)]
      | cons x xs =>
        by_cases hroom : (s.rings.get q).hasRoom pl.cap.entries = true
        · rw [State.startNotice_entry (s := s.setEState p e) hpl hq hroom,
          State.startNotice_entry hpl hq hroom]
          rfl
        · rw [State.startNotice_fullRing (s := s.setEState p e) hpl hq hroom,
          State.startNotice_fullRing hpl hq hroom]
          rfl

theorem State.startPort_setEState (s : State) (p : Port) (e : EState) :
    (s.setEState p e).startPort p.other = (s.startPort p.other).setEState p e := by
  have he : (s.setEState p e).engines.get p.other = s.engines.get p.other := by simp
  unfold State.startPort
  rw [he]
  split
  next acc t job _ hest =>
    cases job with
    | commit =>
      have hcomm : (s.setEState p e).setEState p.other (.inMemory acc t .commit .granted)
          = (s.setEState p.other (.inMemory acc t .commit .granted)).setEState p e := by
        cases p <;> rfl
      have hses : ∀ v : State, (v.setEState p e).jobSession p.other t = v.jobSession p.other t := by
        intro v
        simp [State.jobSession]
      simp only [hcomm]
      unfold State.startCommit
      simp only [hses]
      have hspec : ∀ (v : State) w, (v.setEState p e).spec w = v.spec w := fun _ _ => rfl
      simp only [hspec]
      split <;> rfl
    | _ => cases p <;> rfl
  · rfl

theorem State.startRotor_setEState {s : State} {p : Port} {r : Rotor} (e : EState)
    (hr : r ≠ rotorOf p) : (s.setEState p e).startRotor r = (s.startRotor r).setEState p e := by
  cases r with
  | a =>
    cases p with
    | a => exact absurd rfl hr
    | b => exact State.startPort_setEState { s with pointer := Rotor.a.next } .b e
  | b =>
    cases p with
    | b => exact absurd rfl hr
    | a => exact State.startPort_setEState { s with pointer := Rotor.b.next } .a e
  | notice =>
    simp only [State.startRotor, State.setEState_noticeClaim]
    split
    · rfl
    · exact State.startNotice_setEState
        { s with pointer := Rotor.notice.next, noticeClaim := none } p e _

/-- An engine that is IDLE does not wait; the other claimants wait as they did. -/
theorem State.waits_setEState_idle {s : State} {p : Port} {r : Rotor}
    (h : (s.setEState p .idle).waits r = true) : r ≠ rotorOf p ∧ s.waits r = true := by
  cases r <;> cases p <;> first | exact ⟨nofun, h⟩ | cases h

/-- With one engine's claim out of sight, the arbiter grants a claim that waits, and that engine's
share is not touched. -/
theorem State.grants_beside (s : State) (p : Port) :
    s.Grants ((s.setEState p .idle).arbitrate.setEState p (s.engines.get p).estate) := by
  have hback : (s.setEState p .idle).setEState p (s.engines.get p).estate = s := by
    rw [State.setEState_setEState, State.setEState_self rfl]
  cases hg : s.granted with
  | some g =>
    rw [State.arbitrate_of_granted (s := s.setEState p .idle) hg, hback]
    exact .nothing
  | none =>
    cases hc : s.loaderClaim with
    | some c =>
      rw [State.arbitrate_of_loader (s := s.setEState p .idle) hg hc, ← State.startLoader_setEState]
      exact (congrArg (fun v : State => s.Grants ({ v with loaderClaim := none }.startLoader c))
        hback).mpr (.loader hg hc)
    | none =>
      cases hr : (s.setEState p .idle).rotate with
      | none =>
        rw [State.arbitrate_of_no_claim (s := s.setEState p .idle) hc hr, hback]
        exact .nothing
      | some r =>
        obtain ⟨hne, hw⟩ := State.waits_setEState_idle (State.waits_of_rotate hr)
        rw [State.arbitrate_of_rotate (s := s.setEState p .idle) hg hc hr, ← State.startRotor_setEState _ hne, hback]
        exact State.startRotor_grants hg hw

theorem State.chooseNotice_setEState (s : State) (p : Port) (e : EState) :
    (s.setEState p e).chooseNotice = s.chooseNotice.setEState p e := by
  unfold State.chooseNotice
  have hb : (s.setEState p e).burstCarried = s.burstCarried := rfl
  have hn : (s.setEState p e).noticeChoice = s.noticeChoice := rfl
  rw [hb, hn, State.setEState_noticeClaim]
  split <;> rfl

/-- The choice beside an arriving access: the Notice Unit's alone, or with a grant before it, at the
cost of one free value, of a claim that waits then or once the Notice Unit has claimed. -/
theorem State.chooseBeside_cases (s : State) (p : Port) :
    s.chooseBeside p = s.chooseNotice
      ∨ ∃ v, ({ s with freeCount := s.freeCount + 1 }.Grants v
            ∨ { s with freeCount := s.freeCount + 1 }.chooseNotice.Grants v)
          ∧ s.chooseBeside p = v.chooseNotice := by
  unfold State.chooseBeside
  split
  · right
    dsimp only
    split
    · exact ⟨_, .inl .nothing, rfl⟩
    · exact ⟨_, .inl (State.arbitrate_grants _), rfl⟩
    · refine ⟨_, .inr ?_, rfl⟩
      rw [State.chooseNotice_setEState]
      have h := State.grants_beside { s with freeCount := s.freeCount + 1 }.chooseNotice p
      rwa [State.chooseNotice_engines] at h
  · exact .inl rfl

/-! ## Properties that the shared operations keep -/

/-- The shared operations keep a property of the state: notices received, the Notice Unit's choice, a
grant, the ending lines, and at a port an access taken while the engine is IDLE, a held access let go,
and the two expiries that raise a notice. -/
structure Kept (P : State → Prop) : Prop where
  free : ∀ {s : State} (n : Nat), P s → P { s with freeCount := n }
  raise : ∀ {s : State} (r : Report), P s → P (s.raise r)
  choose : ∀ {s : State}, P s → P s.chooseNotice
  grants : ∀ {s t : State}, s.Grants t → P s → P t
  pins : ∀ {s : State} (p : Port) (x : Pins), P s → P (s.setPins p x)
  drop : ∀ {s : State} {p : Port} {acc : Access}, (s.engines.get p).estate = .held acc → P s →
    P (s.setEState p .idle)
  taking : ∀ {s : State} {p : Port} (acc : Access), (s.engines.get p).estate = .idle → P s →
    P (s.taking p acc).1
  hold : ∀ {s t : State} {p : Port} {r : Report}, s.holdExpiry p = some (t, r) → P s → P t
  session : ∀ {s t : State} {p : Port} {w k : Nat} {r : Report},
    s.sessionExpiry p w k = some (t, r) → P s → P t

namespace Kept

variable {P : State → Prop} (K : Kept P)
include K

theorem raiseAll {s : State} (l : List Report) (h : P s) : P (s.raiseAll l) := by
  induction l generalizing s with
  | nil => exact h
  | cons r rs ih => exact ih (K.raise r h)

theorem arbitrate {s : State} (h : P s) : P s.arbitrate := K.grants s.arbitrate_grants h

theorem grantIf {s : State} (b : Bool) (h : P s) : P (s.grantIf b) := by
  cases b with
  | false => exact h
  | true => exact K.arbitrate h

theorem chooseAfter {s : State} (b : Bool) (h : P s) : P (s.chooseAfter b) :=
  K.choose (K.grantIf b h)

theorem chooseBeside {s : State} (p : Port) (h : P s) : P (s.chooseBeside p) := by
  obtain heq | ⟨v, hv, heq⟩ := s.chooseBeside_cases p
  · rw [heq]
    exact K.choose h
  · rw [heq]
    refine K.choose ?_
    cases hv with
    | inl hv => exact K.grants hv (K.free _ h)
    | inr hv => exact K.grants hv (K.choose (K.free _ h))

theorem takeAccess {s : State} {p : Port} (acc : Access) (he : (s.engines.get p).estate = .idle)
    (h : P s) : P (s.takeAccess p acc) :=
  K.raiseAll _ (K.taking acc he h)

theorem arriving {s : State} (p : Port) (l : Lines) (h : P s) : P (s.arriving p l).1 := by
  unfold State.arriving
  dsimp only
  split
  next hacc =>
    refine K.taking _ ?_ (K.pins _ _ h)
    exact hacc.2.2
  · exact K.pins _ _ h

theorem present {s : State} (p : Port) (l : Lines) (h : P s) : P (s.present p l) :=
  K.chooseBeside p (K.raiseAll _ (K.arriving p l h))

/-- A held access ends with FAULT. -/
theorem endHeld {s : State} {p : Port} {acc : Access}
    (he : (s.engines.get p).estate = .held acc) (h : P s) : P (s.endFault p acc) :=
  K.pins _ _ (K.drop he h)

theorem retake {s : State} (p : Port) (h : P s) : P (s.retake p) := by
  unfold State.retake
  split
  next he =>
    split
    · exact K.raise _ (K.endHeld he h)
    · exact K.takeAccess _ (by simp) (K.drop he h)
  · exact h

theorem retakeAfter {s : State} (limit : Nat) (p : Port) (h : P s) :
    P (s.retakeAfter limit p) := by
  unfold State.retakeAfter
  split
  next he =>
    split
    · exact K.raise _ (K.endHeld he h)
    · exact K.retake p h
  · exact h

theorem endLoad {s : State} (ld : Load) (order : EndOrder) (h : P s.releaseDeferred) :
    P (s.endLoad ld order) := by
  unfold State.endLoad
  dsimp only
  split
  · exact K.choose (K.retakeAfter _ _ (K.grantIf _ (K.choose (K.retakeAfter _ _
      (K.grantIf _ (K.choose (K.raise _ h)))))))
  · exact K.choose (K.retakeAfter _ _ (K.grantIf _ (K.choose (K.raise _ (K.grantIf _
      (K.retakeAfter _ _ h))))))
  · exact K.choose (K.raise _ (K.grantIf _ (K.retakeAfter _ _ (K.grantIf _
      (K.retakeAfter _ _ h)))))

theorem eventNow {s : State} (e : EntryEvent) (h : P s) : P (s.eventNow e).1 := by
  cases e with
  | hold p =>
    simp only [State.eventNow]
    cases hx : s.holdExpiry p with
    | none => exact h
    | some x => exact K.hold hx h
  | session p w k =>
    simp only [State.eventNow]
    cases hx : s.sessionExpiry p w k with
    | none => exact h
    | some x => exact K.session hx h
  | access p addr dir be data => exact K.arriving _ _ h

theorem takeEvents {s : State} (es : List EntryEvent) (h : P s) : P (s.takeEvents es).1 := by
  induction es generalizing s with
  | nil => exact h
  | cons e es ih => exact ih (K.eventNow e h)

end Kept

/-- A property of what neither the ports' work nor the arbiter's touches is kept. -/
theorem Kept.of_frames {P : State → Prop} (hport : ∀ {s t : State}, s.PortWork t → P s → P t)
    (harb : ∀ {s t : State}, s.ArbiterWork t → P s → P t)
    (hfree : ∀ {s : State} (n : Nat), P s → P { s with freeCount := n }) : Kept P where
  free := hfree
  raise r h := hport (State.raise_work _ r) h
  choose h := harb (State.chooseNotice_work _) h
  grants hg h := by
    cases hg with
    | nothing => exact h
    | loader _ _ => exact harb ((State.ArbiterWork.trans (by rfl) (State.startLoader_work _ _))) h
    | port _ _ _ => exact harb ((State.ArbiterWork.trans (by rfl) (State.startPort_work _ _))) h
    | notice _ _ _ => exact harb ((State.ArbiterWork.trans (by rfl) (State.startNotice_work _ _))) h
  pins p x h := hport (State.setPins_work _ p x) h
  drop _ h := hport (State.setEngine_work _ _ _) h
  taking acc _ h := hport (State.taking_work _ _ acc) h
  hold hx h := hport (State.holdExpiry_work hx) h
  session hx h := hport (State.sessionExpiry_work hx) h

end Sys2Proof.Machine
end

section
/-! PROOFS. What every command but RESET and its release leaves alone: the commands that wait, RESET, the
straps, and memory but for the write on the bus. -/

namespace Sys2Proof.Machine

/-! ## Work inside the part -/

/-- The commands that wait, RESET, the straps and memory are as they were: the work is inside the part. -/
structure State.Inside (s t : State) : Prop where
  pending : t.pending = s.pending
  resetAsserted : t.resetAsserted = s.resetAsserted
  straps : t.straps = s.straps
  mem : t.mem = s.mem

theorem State.Inside.refl (s : State) : s.Inside s := ⟨rfl, rfl, rfl, rfl⟩

theorem State.Inside.trans {s t u : State} (h : s.Inside t) (h' : t.Inside u) : s.Inside u :=
  ⟨h'.pending.trans h.pending, h'.resetAsserted.trans h.resetAsserted, h'.straps.trans h.straps,
    h'.mem.trans h.mem⟩

theorem State.PortWork.inside {s t : State} (h : s.PortWork t) : s.Inside t := by
  rw [h]
  exact ⟨rfl, rfl, rfl, rfl⟩

theorem State.ArbiterWork.inside {s t : State} (h : s.ArbiterWork t) : s.Inside t := by
  rw [h]
  exact ⟨rfl, rfl, rfl, rfl⟩

/-- The shared operations work inside the part. -/
theorem State.kept_inside (s : State) : Kept s.Inside :=
  Kept.of_frames (fun h hp => hp.trans h.inside) (fun h hp => hp.trans h.inside)
    (fun _ hp => hp.trans ⟨rfl, rfl, rfl, rfl⟩)

theorem State.chooseNotice_inside (s : State) : s.Inside s.chooseNotice :=
  s.chooseNotice_work.inside

theorem State.chooseAfter_inside (s : State) (b : Bool) : s.Inside (s.chooseAfter b) :=
  (s.chooseAfter_work b).inside

theorem State.raise_inside (s : State) (r : Report) : s.Inside (s.raise r) := (s.raise_work r).inside

theorem State.endLoad_inside (s : State) (ld : Load) (order : EndOrder) :
    s.Inside (s.endLoad ld order) :=
  s.kept_inside.endLoad ld order s.releaseDeferred_work.inside

theorem State.endFailed_inside (s : State) (ld : Load) (order : EndOrder) :
    s.Inside (s.endFailed ld order) :=
  State.Inside.trans (t := { s with part := ld.fromState }) ⟨rfl, rfl, rfl, rfl⟩
    (State.endLoad_inside _ ld order)

theorem State.beginLoad_inside (s : State) (p : Port) (n : Nat) (gf : Bool) (entry : EntryOrder) :
    s.Inside (s.beginLoad p n gf entry) := by
  have hevents := s.kept_inside.grantIf gf (s.kept_inside.takeEvents entry.events (.refl s))
  have henter : ∀ v : State, v.Inside (v.enterLoading p n) := fun _ => ⟨rfl, rfl, rfl, rfl⟩
  exact (((hevents.trans (henter _)).trans (State.emptyForLoad_work _ .a).inside).trans
    (State.emptyForLoad_work _ .b).inside).trans (State.raiseAll_work _ _).inside

theorem State.endStale_inside (s : State) (p : Port) (acc : Access) (ses : Session) (found : Count)
    (gf : Bool) : s.Inside (s.endStale p acc ses found gf) :=
  State.Inside.trans (t := (s.endOp.freeSession p ses.window ses.record).endFault p acc)
    ⟨rfl, rfl, rfl, rfl⟩ ((State.raise_inside _ _).trans (State.chooseAfter_inside _ gf))

theorem State.fillCapture_work (s : State) (p : Port) (acc : Access) (t : Taken) (c : Capture)
    (words : List Word) : s.PortWork (s.fillCapture p acc t c words) := by
  unfold State.fillCapture
  dsimp only
  refine State.PortWork.trans ?_ (State.serve_work _ _ _ _ _ _ _)
  split
  · exact s.raise_work _
  · rfl

theorem State.takeCount_inside (s : State) (q : Port) (n : Count) : s.Inside (s.takeCount q n) :=
  ⟨rfl, rfl, rfl, rfl⟩

theorem State.healTorn_inside (s : State) (base : WAddr) (window : Nat) :
    s.Inside (s.healTorn base window) := ⟨rfl, rfl, rfl, rfl⟩

theorem State.evaluateAttention_inside (s : State) (q : Port) : s.Inside (s.evaluateAttention q) :=
  ⟨rfl, rfl, rfl, rfl⟩

theorem State.toPhase_inside (s : State) (ld : Load) (ph : Phase) : s.Inside (s.toPhase ld ph) :=
  ⟨rfl, rfl, rfl, rfl⟩

theorem State.install_inside (s : State) (cand : RecordMap) : s.Inside (s.install cand) :=
  ⟨rfl, rfl, rfl, rfl⟩

theorem State.claimInstall_inside (s : State) (cand : RecordMap) :
    s.Inside (s.claimInstall cand) := by
  unfold State.claimInstall
  repeat' split
  all_goals exact ⟨rfl, rfl, rfl, rfl⟩

theorem State.applyVerdict_inside (s : State) (ld : Load) (v : Verdict) :
    s.Inside (s.applyVerdict ld v) := by
  cases v with
  | fails r => exact ⟨rfl, rfl, rfl, rfl⟩
  | passes cand =>
    exact State.Inside.trans (t := s.toPhase ld (.installing cand)) ⟨rfl, rfl, rfl, rfl⟩
      (State.claimInstall_inside _ cand)

theorem State.claimAfterHeader_inside (s : State) (cand : RecordMap) (q : Port) :
    s.Inside (s.claimAfterHeader cand q) := by
  unfold State.claimAfterHeader
  repeat' split
  all_goals exact ⟨rfl, rfl, rfl, rfl⟩

/-! ## The ends of expired operations -/

theorem State.expireSingle_work (s : State) (p : Port) : s.PortWork (s.expireSingle p) := by
  unfold State.expireSingle
  split
  · dsimp only
    split
    · exact (s.unwatch_work _).trans (State.endFault_work _ _ _)
    · exact ((s.unwatch_work _).trans (State.endFault_work _ _ _)).trans (State.raise_work _ _)
  · rfl

theorem State.expireStampRead_inside (s : State) (p : Port) : s.Inside (s.expireStampRead p) := by
  unfold State.expireStampRead
  split
  next acc t _ =>
    have h : s.PortWork ((s.freeSession p t.recordOf.1 t.recordOf.2.1).endFault p acc) := rfl
    exact (h.inside.trans (State.raise_inside _ _)).trans ⟨rfl, rfl, rfl, rfl⟩
  · exact .refl s

theorem State.expireCapture_work (s : State) (p : Port) (g : Granted) :
    s.PortWork (s.expireCapture p g) := by
  unfold State.expireCapture
  split
  next acc t _ =>
    exact State.PortWork.trans
      (t := (s.freeCapture p t.recordOf.1 t.recordOf.2.1).endFault p acc) rfl (State.raise_work _ _)
  · rfl

theorem State.expireReading_work (s : State) (p : Port) (w : WordAccess) :
    s.PortWork (s.expireReading p w) := by
  unfold State.expireReading
  split
  next acc t _ =>
    exact State.PortWork.trans
      (t := (s.freeSession p t.recordOf.1 t.recordOf.2.1).endFault p acc) rfl (State.raise_work _ _)
  · rfl

theorem State.enterTorn_inside (s : State) (base : WAddr) (window : Nat) :
    s.Inside (s.enterTorn base window) := by
  unfold State.enterTorn
  dsimp only
  repeat' split
  · exact .refl s
  · exact ⟨rfl, rfl, rfl, rfl⟩
  · exact .refl s
  · exact State.Inside.trans (t := { s with suspect := s.suspect.set window true })
      ⟨rfl, rfl, rfl, rfl⟩ (State.raise_inside _ _)

theorem State.expireWriting_inside (s : State) (p : Port) (g : Granted) :
    s.Inside (s.expireWriting p g) := by
  unfold State.expireWriting
  split
  next acc t _ =>
    refine State.Inside.trans (t := ((s.enterTorn t.recordOf.2.2.2 t.recordOf.1).freeSession p
      t.recordOf.1 t.recordOf.2.1).endFault p acc) ?_ (State.raise_inside _ _)
    exact (s.enterTorn_inside _ _).trans ⟨rfl, rfl, rfl, rfl⟩
  · exact .refl s

theorem State.expireNotice_work (s : State) (p : Port) (entry handles : Bool) :
    s.PortWork (s.expireNotice p entry handles) := by
  unfold State.expireNotice
  dsimp only
  split <;> rfl

theorem State.expireLoader_inside (s : State) (order : EndOrder) :
    s.Inside (s.expireLoader order) := by
  have hgrant := (s.grantIf_work order.grantAtEnd).inside
  have hfail : ∀ (v : State) ld r, v.Inside (v.failLoad ld r) := fun _ _ _ => ⟨rfl, rfl, rfl, rfl⟩
  unfold State.expireLoader
  dsimp only
  split
  · split
    · split
      · exact hgrant.trans (State.endFailed_inside _ _ _)
      · exact hgrant.trans (hfail _ _ _)
    · exact hgrant.trans (hfail _ _ _)
  · exact .refl s

theorem State.expire_inside (s : State) (g : Granted) (w : WordAccess) (order : EndOrder) :
    s.Inside (s.expire g w order) := by
  unfold State.expire
  split
  · exact (s.expireSingle_work _).inside.trans (State.chooseAfter_inside _ _)
  · exact (s.expireStampRead_inside _).trans (State.chooseAfter_inside _ _)
  · exact (s.expireCapture_work _ _).inside.trans (State.chooseAfter_inside _ _)
  · exact (s.expireReading_work _ _).inside.trans (State.chooseAfter_inside _ _)
  · exact (s.expireWriting_inside _ _).trans (State.chooseAfter_inside _ _)
  · exact (s.expireNotice_work _ _ _).inside.trans (State.chooseAfter_inside _ _)
  · exact (s.expireNotice_work _ _ _).inside.trans (State.chooseAfter_inside _ _)
  · exact (s.expireNotice_work _ _ _).inside.trans (State.chooseAfter_inside _ _)
  · exact (s.expireLoader_inside _).trans (State.chooseNotice_inside _)
  · exact (s.expireLoader_inside _).trans (State.chooseNotice_inside _)
  · exact (s.expireLoader_inside _).trans (State.chooseNotice_inside _)

/-! ## From where a command's effect works inside the part -/

/-- What the memory bus leaves before the part goes on: nothing changed, or, for a command that presents
no access, the word access in progress answered or expired. -/
def State.BusStep (s : State) (c : Instr) (v : State) : Prop :=
  v = s ∨ accessOf c = none ∧ ∃ g w rest, s.granted = some g ∧ g.todo = w :: rest
    ∧ ((∃ ans, v = s.answer w ans) ∨ v = s.landExpired w)

theorem State.OnBus.busStep {s : State} {c : Instr} {g : Granted} {w : WordAccess}
    {rest : List WordAccess} (h : s.OnBus g w rest) (hc : accessOf c = none) (ans : Answer) :
    s.BusStep c (s.answer w ans) :=
  .inr ⟨hc, g, w, rest, h.1, h.2.2, .inl ⟨ans, rfl⟩⟩

theorem State.LastOnBus.busStep {s : State} {c : Instr} {g : Granted} {w : WordAccess}
    (h : s.LastOnBus g w) (hc : accessOf c = none) (ans : Answer) :
    s.BusStep c (s.answer w ans) :=
  State.OnBus.busStep (rest := []) h hc ans

theorem State.Overdue.busStep {s : State} {c : Instr} {g : Granted} {w : WordAccess}
    {rest : List WordAccess} (h : s.Overdue g w rest) (hc : accessOf c = none) :
    s.BusStep c (s.landExpired w) :=
  .inr ⟨hc, g, w, rest, h.1, h.2.1, .inr rfl⟩

theorem State.answered_inside (s : State) (w : WordAccess) (ans : Answer) :
    (s.answer w ans).Inside (s.answered w ans) := ⟨rfl, rfl, rfl, rfl⟩

theorem State.expired_inside (s : State) (w : WordAccess) :
    (s.landExpired w).Inside (s.expired w) := ⟨rfl, rfl, rfl, rfl⟩

theorem State.arriveAtRelease_work (s : State) (p : Port) : s.PortWork (s.arriveAtRelease p) := by
  unfold State.arriveAtRelease
  split
  · rfl
  · exact s.takeAccess_work _ _

theorem State.arriveBoth_inside (s : State) : s.Inside s.arriveBoth := by
  have hfree : s.Inside { s with freeCount := s.freeCount + 1 } := ⟨rfl, rfl, rfl, rfl⟩
  have harr : ∀ (v : State) p, v.Inside (v.arriveAtRelease p) :=
    fun v p => (v.arriveAtRelease_work p).inside
  have hgrant : ∀ v : State, v.Inside v.arbitrate := fun v => v.arbitrate_work.inside
  unfold State.arriveBoth
  split
  · dsimp only
    split
    · exact (hfree.trans (harr _ _)).trans (harr _ _)
    · exact ((hfree.trans (harr _ _)).trans (hgrant _)).trans (harr _ _)
    · exact ((hfree.trans (harr _ _)).trans (hgrant _)).trans (harr _ _)
  · exact (harr s _).trans (harr _ _)

/-- Every command is RESET, its release, or work inside the part once the bus has done its own. -/
theorem Effect.source {s t : State} {c : Instr} (h : Effect s c t) :
    (c = .reset ∧ t = s.afterReset)
      ∨ (accessOf c = none ∧ s.resetAsserted = true ∧ ∃ st, (s.released st).Inside t)
      ∨ ∃ v, s.BusStep c v ∧ v.Inside t := by
  have hbus : ∀ {v u : State}, s.BusStep c v → v.Inside u → ∃ v, s.BusStep c v ∧ v.Inside u :=
    fun h h' => ⟨_, h, h'⟩
  have hstay : s.BusStep c s := .inl rfl
  cases h with
  | reset => exact .inl ⟨rfl, rfl⟩
  | release hr => exact .inr (.inl ⟨rfl, hr, _, State.arriveBoth_inside _⟩)
  | stays => exact .inr (.inr (hbus hstay (.refl s)))
  | strobe | tick | stray | ackReleased | drained | captureLimit =>
    exact .inr (.inr (hbus hstay ⟨rfl, rfl, rfl, rfl⟩))
  | access =>
    exact .inr (.inr (hbus hstay (s.kept_inside.present _ _ (.refl s))))
  | grant =>
    exact .inr (.inr (hbus hstay (s.arbitrate_work.inside.trans (State.chooseNotice_inside _))))
  | word h => exact .inr (.inr (hbus (h.busStep rfl _) (State.issue_work _ _ _ _ _).inside))
  | @commitWord _ ans _ _ rest _ _ _ _ hc h =>
    refine .inr (.inr (hbus (h.busStep hc ans) ?_))
    cases rest <;> exact (State.issue_work _ _ _ _ _).inside
  | single h =>
    exact .inr (.inr (hbus (h.busStep rfl _) ((State.answered_inside s _ _).trans
      (State.endReady_work _ _ _ _).inside)))
  | count h =>
    exact .inr (.inr (hbus (h.busStep rfl _) (((State.answered_inside s _ _).trans
      (State.takeCount_inside _ _ _)).trans (State.endReady_work _ _ _ _).inside)))
  | committed h =>
    exact .inr (.inr (hbus (h.busStep rfl _) (((State.answered_inside s _ _).trans
      (State.healTorn_inside _ _ _)).trans
        ((State.freeSession_work _ _ _ _).trans (State.endReady_work _ _ _ _)).inside)))
  | inProgress h =>
    exact .inr (.inr (hbus (h.busStep rfl _) ((State.answered_inside s _ _).trans
      (State.toPhase_inside _ _ _))))
  | @request ans _ _ _ w p acc _ _ h =>
    refine .inr (.inr (hbus (h.busStep rfl ans) ?_))
    have hend := (State.answered_inside s w ans).trans (State.endReady_work _ p acc 0).inside
    split
    · exact hend
    · exact ((hend.trans (State.grantIf_work _ _).inside).trans
        (State.beginLoad_inside _ _ _ _ _)).trans (State.chooseNotice_inside _)
  | @stampRead ans _ _ _ _ _ _ h =>
    refine .inr (.inr (hbus (h.busStep rfl ans) ((State.answered_inside s _ _).trans ?_)))
    exact ((State.stageWrite_work _ _ _ _ _ _).trans (State.clearIfLoading_work _ _)).inside.trans
      (State.chooseNotice_inside _)
  | stale h => exact .inr (.inr (hbus (h.busStep rfl _) (State.endStale_inside _ _ _ _ _ _)))
  | @captured ans _ _ _ _ _ _ h =>
    refine .inr (.inr (hbus (h.busStep rfl ans) ((State.answered_inside s _ _).trans ?_)))
    exact ((State.fillCapture_work _ _ _ _ _ _).trans (State.clearIfLoading_work _ _)).inside.trans
      (State.chooseAfter_inside _ _)
  | entryBurst h =>
    exact .inr (.inr (hbus (h.busStep rfl _) ((((State.answered_inside s _ _).trans
      ((State.setRing_work _ _ _).trans (State.handled_work _ _)).inside).trans
        (State.evaluateAttention_inside _ _)).trans (State.chooseNotice_inside _))))
  | fullRingBurst h =>
    exact .inr (.inr (hbus (h.busStep rfl _) (((State.answered_inside s _ _).trans
      ((State.setRing_work _ _ _).trans (State.handled_work _ _)).inside).trans
        (State.chooseNotice_inside _))))
  | lossReport h =>
    exact .inr (.inr (hbus (h.busStep rfl _) (((State.answered_inside s _ _).trans
      (State.setRing_work _ _ _).inside).trans (State.chooseNotice_inside _))))
  | imageRead h =>
    exact .inr (.inr (hbus (h.busStep rfl _)
      ((State.answered_inside s _ _).trans (State.applyVerdict_inside _ _ _))))
  | header h =>
    exact .inr (.inr (hbus (h.busStep rfl _)
      ((State.answered_inside s _ _).trans (State.claimAfterHeader_inside _ _ _))))
  | done h =>
    exact .inr (.inr (hbus (h.busStep rfl _) (((State.answered_inside s _ _).trans
      (State.install_inside _ _)).trans (State.endLoad_inside _ _ _))))
  | failed h =>
    exact .inr (.inr (hbus (h.busStep rfl _) (((State.answered_inside s _ _).trans
      (State.grantIf_work _ _).inside).trans (State.endFailed_inside _ _ _))))
  | failedLate h =>
    exact .inr (.inr (hbus (h.busStep rfl) (((State.expired_inside s _).trans
      (State.grantIf_work _ _).inside).trans (State.endFailed_inside _ _ _))))
  | expires h =>
    exact .inr (.inr (hbus (h.busStep rfl) ((State.expired_inside s _).trans
      (State.expire_inside _ _ _ _))))
  | hold h =>
    exact .inr (.inr (hbus hstay (((State.holdExpiry_work h).inside.trans
      (State.raise_inside _ _)).trans (State.chooseNotice_inside _))))
  | session h =>
    exact .inr (.inr (hbus hstay (((State.sessionExpiry_work h).inside.trans
      (State.raise_inside _ _)).trans (State.chooseNotice_inside _))))

/-! ## Memory -/

/-- A memory that a write on the bus can leave: as it was, or the word access written on some of its
enabled lanes. -/
def Memory.Landed (m : Memory) (w : WordAccess) (m' : Memory) : Prop :=
  m' = m ∨ w.dir = .write ∧ ∃ lanes, m' = m.writeWord w.addr (w.be &&& lanes) w.data

theorem State.landOn_landed (s : State) (w : WordAccess) (lanes : Lanes) :
    s.mem.Landed w (s.landOn w lanes).mem := by
  unfold State.landOn
  split
  next => exact .inl rfl
  next hd => exact .inr ⟨hd, lanes, rfl⟩

theorem State.answer_landed (s : State) (w : WordAccess) (ans : Answer) :
    s.mem.Landed w (s.answer w ans).mem := by
  unfold State.answer
  split
  next hd =>
    refine .inr ⟨hd, allLanes, ?_⟩
    rw [show w.be &&& allLanes = w.be from BitVec.and_allOnes]
  next => exact .inl rfl
  next => exact s.landOn_landed w _

/-- A command changes memory by the word access in progress alone. -/
theorem Effect.landed {s t : State} {c : Instr} (h : Effect s c t) :
    t.mem = s.mem
      ∨ accessOf c = none ∧ ∃ g w rest, s.granted = some g ∧ g.todo = w :: rest
          ∧ s.mem.Landed w t.mem := by
  obtain ⟨rfl, rfl⟩ | ⟨-, -, st, hin⟩ | ⟨v, hv, hin⟩ := h.source
  · change s.cutOff.mem = s.mem ∨ _ ∧ ∃ g w rest, _ ∧ _ ∧ s.mem.Landed w s.cutOff.mem
    unfold State.cutOff
    split
    · exact .inl rfl
    next g hg =>
      split
      · exact .inl rfl
      next w rest ht => exact .inr ⟨rfl, g, w, rest, hg, ht, s.landOn_landed w _⟩
  · exact .inl hin.mem
  · rw [hin.mem]
    obtain rfl | ⟨hc, g, w, rest, hg, ht, ⟨ans, rfl⟩ | rfl⟩ := hv
    · exact .inl rfl
    · exact .inr ⟨hc, g, w, rest, hg, ht, s.answer_landed w ans⟩
    · exact .inr ⟨hc, g, w, rest, hg, ht, s.landOn_landed w _⟩

theorem enabled_and (a b : Lanes) (k : Nat) :
    enabled (a &&& b) k = (enabled a k && enabled b k) := BitVec.getLsbD_and

/-- A byte that a write on the bus changes is that of an enabled lane of its word. -/
theorem Memory.Landed.readByte {m m' : Memory} {w : WordAccess} (h : m.Landed w m')
    (hwf : m.wf = true) (x : Nat) :
    m'.readByte x = m.readByte x
      ∨ w.dir = .write ∧ x / 4 = w.addr.toNat ∧ enabled w.be (x % 4) = true
          ∧ m'.readByte x = lane w.data (x % 4) := by
  obtain rfl | ⟨hd, lanes, rfl⟩ := h
  · exact .inl rfl
  · rw [Memory.readByte_writeWord hwf, enabled_and]
    split
    next hx =>
      rw [Bool.and_eq_true] at hx
      exact .inr ⟨hd, hx.1, hx.2.1, rfl⟩
    next => exact .inl rfl

theorem Memory.Landed.wf {m m' : Memory} {w : WordAccess} (h : m.Landed w m')
    (hwf : m.wf = true) : m'.wf = true := by
  obtain rfl | ⟨-, lanes, rfl⟩ := h
  · exact hwf
  · exact Memory.wf_writeWord hwf _ _ _

/-- Settles O52: a command's effect changes memory by the word access in progress alone. -/
theorem stepChangesMemoryOnTheBusAlone : Obligations.StepChangesMemoryOnTheBusAlone := by
  constructor
  · intro c s t hwf hexec x hx
    obtain heq | ⟨hc, g, w, rest, hg, ht, hland⟩ := (exec_effect hexec).landed
    · exact absurd (congrArg (fun m => m.readByte x) heq) hx
    · obtain hsame | ⟨hd, hword, hlane, hbyte⟩ := hland.readByte hwf x
      · exact absurd hsame hx
      · exact ⟨g, w, rest, hg, ht, hd, hword, hlane, hbyte, hc⟩
  · intro s t hwf hstep
    obtain rfl | ⟨c, rest, -, heff⟩ := step_effect hstep
    · exact hwf
    · obtain heq | ⟨-, g, w, _, _, _, hland⟩ := heff.landed
      · rw [heq]
        exact hwf
      · exact hland.wf hwf

end Sys2Proof.Machine
end

section
/-! PROOFS. One port's share of State as one replacement: the fields a replacement leaves, and every
operation of a port engine on its tables in that form. -/

namespace Sys2Proof.Machine

/-! ## A port's share replaced -/

section
variable (s : State) (p : Port) (e : Engine) (x : Pins)

@[simp] theorem State.withPort_engines : (s.withPort p e x).engines = s.engines.set p e := rfl
@[simp] theorem State.withPort_pins : (s.withPort p e x).pins = s.pins.set p x := rfl
@[simp] theorem State.withPort_part : (s.withPort p e x).part = s.part := rfl
@[simp] theorem State.withPort_map : (s.withPort p e x).map = s.map := rfl
@[simp] theorem State.withPort_isLoading : (s.withPort p e x).isLoading = s.isLoading := rfl
@[simp] theorem State.withPort_spec (w : Nat) : (s.withPort p e x).spec w = s.spec w := rfl
@[simp] theorem State.withPort_timebase : (s.withPort p e x).timebase = s.timebase := rfl
@[simp] theorem State.withPort_straps : (s.withPort p e x).straps = s.straps := rfl
@[simp] theorem State.withPort_granted : (s.withPort p e x).granted = s.granted := rfl
@[simp] theorem State.withPort_torn : (s.withPort p e x).torn = s.torn := rfl
@[simp] theorem State.withPort_suspect : (s.withPort p e x).suspect = s.suspect := rfl
@[simp] theorem State.withPort_queue : (s.withPort p e x).queue = s.queue := rfl
@[simp] theorem State.withPort_rings : (s.withPort p e x).rings = s.rings := rfl
@[simp] theorem State.withPort_resetAsserted :
    (s.withPort p e x).resetAsserted = s.resetAsserted := rfl

@[simp] theorem State.withPort_withPort (e' : Engine) (x' : Pins) :
    (s.withPort p e x).withPort p e' x' = s.withPort p e' x' := by
  simp [State.withPort]

theorem State.withPort_self : s.withPort p (s.engines.get p) (s.pins.get p) = s := by
  simp [State.withPort]

theorem State.setPins_eq : s.setPins p x = s.withPort p (s.engines.get p) x := by
  simp [State.setPins, State.withPort]

theorem State.setSessions_eq (t : List Session) :
    s.setSessions p t
      = s.withPort p { s.engines.get p with sessions := t } (s.pins.get p) := by
  simp [State.setSessions, State.setEngine, State.withPort]

theorem State.setCaptures_eq (t : List Capture) :
    s.setCaptures p t
      = s.withPort p { s.engines.get p with captures := t } (s.pins.get p) := by
  simp [State.setCaptures, State.setEngine, State.withPort]

theorem State.claim_eq (acc : Access) (t : Option Taken) (job : Job) :
    s.claim p acc t job
      = s.withPort p { s.engines.get p with estate := .inMemory acc t job .waiting }
          (s.pins.get p) := State.setEState_eq s p _

theorem State.endReady_eq (acc : Access) (w : Word) :
    s.endReady p acc w
      = s.withPort p { s.engines.get p with estate := .idle }
          { s.pins.get p with out := .ready (dataOn acc.dir w) } := by
  rw [State.endReady, State.endAccess_eq, Access.dataLines_eq]

theorem State.endFault_eq (acc : Access) :
    s.endFault p acc
      = s.withPort p { s.engines.get p with estate := .idle }
          { s.pins.get p with out := .fault (dataOn acc.dir 0) } := by
  rw [State.endFault, State.endAccess_eq, Access.dataLines_eq]

end

/-! ## The tables by their records -/

theorem Session.of_eq (ses : Session) (w r : Nat) :
    ses.of w r = (ses.window == w && ses.record == r) := by
  rw [Bool.eq_iff_iff]
  simp [Session.of]

theorem Capture.of_eq (c : Capture) (w r : Nat) :
    c.of w r = (c.window == w && c.record == r) := by
  rw [Bool.eq_iff_iff]
  simp [Capture.of]

theorem Session.of_iff (ses : Session) (w r : Nat) :
    ses.of w r = true ↔ ses.window = w ∧ ses.record = r := by
  simp [Session.of]

theorem Capture.of_iff (c : Capture) (w r : Nat) :
    c.of w r = true ↔ c.window = w ∧ c.record = r := by
  simp [Capture.of]

theorem dropSession_eq (w r : Nat) (t : List Session) : dropSession w r t = sessionsBut w r t := by
  simp only [dropSession, sessionsBut, Session.of_eq]

theorem dropCapture_eq (w r : Nat) (t : List Capture) : dropCapture w r t = capturesBut w r t := by
  simp only [dropCapture, capturesBut, Capture.of_eq]

theorem putSession_eq (ses : Session) (t : List Session) :
    putSession ses t
      = t.map fun y => if y.window == ses.window && y.record == ses.record then ses else y := by
  simp only [putSession, Session.of_eq]

theorem putCapture_eq (c : Capture) (t : List Capture) :
    putCapture c t
      = t.map fun y => if y.window == c.window && y.record == c.record then c else y := by
  simp only [putCapture, Capture.of_eq]

theorem withFreeSlot_dropCapture (w r : Nat) (t : List Capture) :
    withFreeSlot (dropCapture w r t) = roomForCapture w r t := by
  rw [dropCapture_eq]
  rfl

theorem Engine.sessionOf_none {e : Engine} {w r : Nat} (h : e.sessionOf w r = none) :
    ∀ ses ∈ e.sessions, ¬ (ses.window = w ∧ ses.record = r) := by
  intro ses hmem hkey
  exact List.find?_eq_none.mp h ses hmem ((ses.of_iff w r).mpr hkey)

/-- A session put into a table that has none of its record, but for the last place, takes that place. -/
theorem putSession_append {t : List Session} {ses old : Session}
    (h : ∀ y ∈ t, ¬ (y.window = ses.window ∧ y.record = ses.record))
    (hold : old.window = ses.window ∧ old.record = ses.record) :
    putSession ses (t ++ [old]) = t ++ [ses] := by
  rw [putSession, List.map_append]
  congr 1
  · refine (List.map_congr_left fun y hy => if_neg ?_).trans (List.map_id t)
    rw [Session.of_iff]
    exact h y hy
  · simp [Session.of, hold]

/-! ## Staging, opening, serving and taking a capture, each as one replacement -/

section
variable (s : State) (p : Port) (acc : Access) (t : Taken)

theorem State.freeSession_eq (w r : Nat) :
    s.freeSession p w r
      = s.withPort p
          { s.engines.get p with sessions := sessionsBut w r (s.engines.get p).sessions }
          (s.pins.get p) := by
  rw [State.freeSession, dropSession_eq, State.setSessions_eq]

theorem State.freeCapture_eq (w r : Nat) :
    s.freeCapture p w r
      = s.withPort p
          { s.engines.get p with captures := capturesBut w r (s.engines.get p).captures }
          (s.pins.get p) := by
  rw [State.freeCapture, dropCapture_eq, State.setCaptures_eq]

/-- A write staged: its session CLOSING with the commit claimed, or OPEN and the write READY (R47). -/
theorem State.stageWrite_eq (ses : Session) (o : Nat) :
    s.stageWrite p acc t ses o
      = if (s.spec ses.window).closes (ses.place o t.be t.data).stage = true then
          s.withPort p
            { estate := .inMemory acc (some t) .commit .waiting,
              sessions := putSession { ses.place o t.be t.data with state := .closing }
                (s.engines.get p).sessions,
              captures := (s.engines.get p).captures }
            (s.pins.get p)
        else
          s.withPort p
            { estate := .idle,
              sessions := putSession { ses.place o t.be t.data with state := .open }
                (s.engines.get p).sessions,
              captures := (s.engines.get p).captures }
            { s.pins.get p with out := .ready (dataOn acc.dir 0) } := by
  unfold State.stageWrite
  simp only [State.claim_eq, State.endReady_eq, State.setSessions_eq, State.withPort_engines,
    State.withPort_pins, Both.get_set_self, State.withPort_withPort]

/-- The notices of making room in a Session Table: the eviction of the first session of a full one. -/
def evictions (p : Port) (t : List Session) : List Report :=
  if t.length < 4 then []
  else (t.head?.map fun ses => abandonedReport p ses .evicted).toList

theorem State.raiseAll_evictions (t : List Session) :
    s.raiseAll (evictions p t) = s.reportEviction p t := by
  unfold evictions State.reportEviction
  split
  · rfl
  · cases t.head? <;> rfl

theorem State.roomForSession_eq :
    s.roomForSession p
      = (s.withPort p
          { s.engines.get p with sessions := Machine.roomForSession (s.engines.get p).sessions }
          (s.pins.get p),
        evictions p (s.engines.get p).sessions) := by
  unfold State.roomForSession Machine.roomForSession evictions Config.tableSlots
  split
  · rw [State.withPort_self]
  next hfull =>
    cases h : (s.engines.get p).sessions with
    | nil =>
      rw [h] at hfull
      exact absurd (Nat.zero_lt_succ 3) hfull
    | cons ses rest =>
      dsimp only
      rw [State.setSessions_eq]
      rfl

/-- A write opens a session in a GUARDED window: OPENING, its stamp read claimed (R42). -/
theorem State.openSession_guarded {w : Nat} (r o : Nat) (b : WAddr)
    (hpol : (s.spec w).policy = .guarded) :
    s.openSession p acc t w r o b
      = (s.withPort p
          { estate := .inMemory acc (some t) .stampRead .waiting,
            sessions := Machine.roomForSession (s.engines.get p).sessions
              ++ [newSession w r b (s.spec w).reclen],
            captures := capturesBut w r (s.engines.get p).captures }
          (s.pins.get p),
        evictions p (s.engines.get p).sessions) := by
  unfold State.openSession
  simp only [hpol, State.freeCapture_eq, State.roomForSession_eq, State.setSessions_eq,
    State.claim_eq, State.withPort_engines, State.withPort_pins, Both.get_set_self,
    State.withPort_withPort]

/-- The session that a write opens in a window that is not GUARDED, with its bytes staged (R41). -/
def openedSession (w r o : Nat) (b : WAddr) (words : Nat) (now : Time) (t : Taken) : Session :=
  { newSession w r b words with opened := some now }.place o t.be t.data

/-- A write opens a session in a window that is not GUARDED: staged at once (R41). -/
theorem State.openSession_last {w r : Nat} (o : Nat) (b : WAddr)
    (hpol : (s.spec w).policy = .last) (hnone : (s.engines.get p).sessionOf w r = none) :
    s.openSession p acc t w r o b
      = (if (s.spec w).closes
            (openedSession w r o b (s.spec w).reclen s.timebase t).stage = true then
          s.withPort p
            { estate := .inMemory acc (some t) .commit .waiting,
              sessions := Machine.roomForSession (s.engines.get p).sessions
                ++ [{ openedSession w r o b (s.spec w).reclen s.timebase t with state := .closing }],
              captures := capturesBut w r (s.engines.get p).captures }
            (s.pins.get p)
        else
          s.withPort p
            { estate := .idle,
              sessions := Machine.roomForSession (s.engines.get p).sessions
                ++ [{ openedSession w r o b (s.spec w).reclen s.timebase t with state := .open }],
              captures := capturesBut w r (s.engines.get p).captures }
            { s.pins.get p with out := .ready (dataOn acc.dir 0) },
        evictions p (s.engines.get p).sessions) := by
  have hothers : ∀ y ∈ Machine.roomForSession (s.engines.get p).sessions,
      ¬ (y.window = w ∧ y.record = r) := by
    intro y hy
    refine Engine.sessionOf_none hnone y ?_
    unfold Machine.roomForSession at hy
    split at hy
    · exact hy
    · exact List.mem_of_mem_tail hy
  unfold State.openSession
  simp only [hpol, State.freeCapture_eq, State.roomForSession_eq, State.setSessions_eq,
    State.stageWrite_eq, State.withPort_engines, State.withPort_pins, Both.get_set_self,
    State.withPort_withPort, State.withPort_spec, State.withPort_timebase]
  have hput : ∀ st, putSession { openedSession w r o b (s.spec w).reclen s.timebase t with state := st }
      (Machine.roomForSession (s.engines.get p).sessions
        ++ [{ newSession w r b (s.spec w).reclen with opened := some s.timebase }])
      = Machine.roomForSession (s.engines.get p).sessions
        ++ [{ openedSession w r o b (s.spec w).reclen s.timebase t with state := st }] :=
    fun st => putSession_append hothers ⟨rfl, rfl⟩
  simp only [openedSession] at hput ⊢
  simp only [hput]
  rfl

/-- A word served from a LIVE capture (R86, R87). -/
theorem State.serve_eq (c : Capture) (l : Live) (o : Nat) :
    s.serve p acc t c l o
      = s.withPort p
          { estate := .idle, sessions := (s.engines.get p).sessions,
            captures := if (c.mark o).covered l.words.length = true
              then capturesBut c.window c.record (s.engines.get p).captures
              else putCapture (c.mark o) (s.engines.get p).captures }
          { s.pins.get p with
            out := if l.bad = true
              then .fault (dataOn acc.dir (portWord acc (some t) (l.words.getD o 0)))
              else .ready (dataOn acc.dir (portWord acc (some t) (l.words.getD o 0))) } := by
  unfold State.serve
  simp only [State.setCaptures_eq, State.endAccess_eq, Access.dataLines_eq, dropCapture_eq,
    State.withPort_engines, State.withPort_pins, Both.get_set_self, State.withPort_withPort]

/-- A new capture taken, its burst claimed (R80). -/
theorem State.takeCapture_eq (w r : Nat) (b : WAddr) :
    s.takeCapture p acc t w r b
      = s.withPort p
          { estate := .inMemory acc (some t) .capture .waiting,
            sessions := (s.engines.get p).sessions,
            captures := roomForCapture w r (s.engines.get p).captures
              ++ [{ window := w, record := r, base := b, live := none, readMask := 0 }] }
          (s.pins.get p) := by
  unfold State.takeCapture
  simp only [State.setCaptures_eq, State.claim_eq, withFreeSlot_dropCapture,
    State.withPort_engines, State.withPort_pins, Both.get_set_self, State.withPort_withPort]

end

/-! ## What an access that is taken can leave -/

/-- What the taking of an access can leave of a state, and the notices it raises: one constructor for
each way in which R10 to R20, R38, R79, R130 and R142 handle an access. -/
inductive State.Takes (s : State) (p : Port) (acc : Access) : State × List Report → Prop where
  | ends (out : PortOut) (reports : List Report) :
      s.Takes p acc (s.endAccess p out, reports)
  | holds {ld : Load} (hl : s.part = .loading ld) : s.Takes p acc (s.setEState p (.held acc), [])
  | single {t : Option Taken} {purpose : Purpose} (hl : s.isLoading = false)
      (hp : ∀ q n, purpose ≠ .watched q n) :
      s.Takes p acc (s.claim p acc t (.single purpose), [])
  | watched {m : RecordMap} {t : Taken} {q : Port} {n : Count} (hm : s.part = .active m)
      (hring : (m.rings.get q).isSome = true) (hv : (s.rings.get q).validCount n = true) :
      s.Takes p acc
        ((s.setRing q { s.rings.get q with watch := some p }).claim p acc (some t)
          (.single (.watched q n)), [])
  | staged {m : RecordMap} {t : Taken} {w r o : Nat} {b : WAddr} {ses : Session}
      (hm : s.part = .active m) (hkey : t.recordOf = (w, r, o, b))
      (hses : (s.engines.get p).sessionOf w r = some ses) :
      s.Takes p acc (s.stageWrite p acc t ses o, [])
  | opens {m : RecordMap} {t : Taken} {w r o : Nat} {b : WAddr} (hm : s.part = .active m)
      (hkey : t.recordOf = (w, r, o, b)) (hses : (s.engines.get p).sessionOf w r = none) :
      s.Takes p acc (s.openSession p acc t w r o b)
  | serves {m : RecordMap} {t : Taken} {w r o : Nat} {c : Capture} {l : Live}
      (hm : s.part = .active m) (hcap : (s.engines.get p).captureOf w r = some c)
      (hlive : c.live = some l) :
      s.Takes p acc (s.serve p acc t c l o, [])
  | takes {m : RecordMap} {t : Taken} {w r o : Nat} {b : WAddr} (hm : s.part = .active m)
      (hkey : t.recordOf = (w, r, o, b)) (hses : (s.engines.get p).sessionOf w r = none) :
      s.Takes p acc (s.takeCapture p acc t w r b, [])

section
variable {s : State} {p : Port} {acc : Access} {m : RecordMap}

theorem State.isLoading_of_active (hm : s.part = .active m) : s.isLoading = false := by
  simp only [State.isLoading, hm]

theorem State.Takes.claimSingle (hm : s.part = .active m) (t : Option Taken) :
    s.Takes p acc (s.claimSingle p acc t) :=
  .single (State.isLoading_of_active hm) fun _ _ => nofun

theorem State.takeImage_takes (hm : s.part = .active m) (t : Taken) (word : ImageWord) :
    s.Takes p acc (s.takeImage m p acc t word) := by
  unfold State.takeImage
  split
  · split
    · exact .claimSingle hm _
    · split
      · exact .single (State.isLoading_of_active hm) fun _ _ => nofun
      · exact .ends _ _
  · exact .claimSingle hm _

/-- An address classified in a ring region is in that of a configured ring (R13). -/
theorem classify_ring {m : RecordMap} {ib a : WAddr} {q : Port} {role : RingRole}
    (h : classify m ib a = .ring q role) : (m.rings.get q).isSome = true := by
  have hin : ∀ records l i, classIn records a l i ≠ some (.ring q role) := by
    intro records l
    induction l with
    | nil => intro i h; cases h
    | cons w ws ih =>
      intro i h
      unfold classIn at h
      split at h
      · split at h
        · unfold Window.classAt at h
          split at h <;> cases h
        · exact ih _ h
      · exact ih _ h
  have hring : ∀ pl x, classRing pl x a = some (.ring q role) → x = q ∧ pl.isSome = true := by
    intro pl x h
    unfold classRing at h
    split at h
    · cases h
    · split at h <;> cases h
      exact ⟨rfl, rfl⟩
  unfold classify at h
  split at h
  · cases h
  · split at h
    · cases h
    · cases ha : classRing m.rings.a .a a with
      | some c =>
        simp only [ha, Option.some_or, Option.getD_some] at h
        obtain ⟨rfl, hs⟩ := hring _ _ (h ▸ ha)
        exact hs
      | none =>
        cases hb : classRing m.rings.b .b a with
        | some c =>
          simp only [ha, hb, Option.none_or, Option.some_or, Option.getD_some] at h
          obtain ⟨rfl, hs⟩ := hring _ _ (h ▸ hb)
          exact hs
        | none =>
          simp only [ha, hb, Option.none_or] at h
          cases hr : classIn true a m.windows 0 with
          | some c =>
            simp only [hr, Option.some_or, Option.getD_some] at h
            exact absurd (h ▸ hr) (hin _ _ _)
          | none =>
            cases hp : classIn false a m.windows 0 with
            | some c =>
              simp only [hr, hp, Option.none_or, Option.getD_some] at h
              exact absurd (h ▸ hp) (hin _ _ _)
            | none =>
              rw [hr, hp] at h
              cases h

theorem State.takeRing_takes (hm : s.part = .active m) (t : Taken) {q : Port}
    (hq : (m.rings.get q).isSome = true) (role : RingRole) :
    s.Takes p acc (s.takeRing p acc t q role) := by
  unfold State.takeRing
  split
  · exact .claimSingle hm _
  · unfold State.takeConsumer
    split
    · dsimp only
      split
      next hv => exact .watched hm hq hv
      next => exact .ends _ _
    · exact .claimSingle hm _
  · exact .ends _ _

theorem State.takePlain_takes (hm : s.part = .active m) (t : Taken) (w : Nat) :
    s.Takes p acc (s.takePlain m p acc t w) := by
  unfold State.takePlain
  split
  · exact .claimSingle hm _
  · exact .ends _ _

theorem State.takeUnmapped_takes (hm : s.part = .active m) (t : Taken) :
    s.Takes p acc (s.takeUnmapped m p acc t) := by
  unfold State.takeUnmapped
  split
  · exact .claimSingle hm _
  · exact .claimSingle hm _
  · exact .ends _ _
  · exact .ends _ _

theorem State.readRecord_takes (hm : s.part = .active m) {t : Taken} {w r o : Nat} {b : WAddr}
    (hkey : t.recordOf = (w, r, o, b)) : s.Takes p acc (s.readRecord p acc t w r o b, []) := by
  unfold State.readRecord
  split
  next ses _ =>
    unfold State.ownRead
    dsimp only
    split
    · exact .ends _ _
    · exact .single (State.isLoading_of_active hm) fun _ _ => nofun
  next hses =>
    split
    · exact .takes hm hkey hses
    next c hcap =>
      split
      · exact .takes hm hkey hses
      next l hlive =>
        split
        · exact .takes hm hkey hses
        · exact .serves hm hcap hlive

theorem State.takeRecord_takes (hm : s.part = .active m) {t : Taken} {w r o : Nat} {b : WAddr}
    (hkey : t.recordOf = (w, r, o, b)) (role : WordRole) :
    s.Takes p acc (s.takeRecord m p acc t w r o b role) := by
  unfold State.takeRecord
  split
  · split
    · exact State.readRecord_takes hm hkey
    · exact .ends _ _
    · exact .ends _ _
    · unfold State.writeRecord
      split
      next hses => exact .staged hm hkey hses
      next hses => exact .opens hm hkey hses
  · exact .ends _ _

/-- An access that is taken is handled in one of the ways of `Takes`. -/
theorem State.taking_takes (s : State) (p : Port) (acc : Access) :
    s.Takes p acc (s.taking p acc) := by
  unfold State.taking
  split
  next hb =>
    have hl : s.isLoading = false := by simp only [State.isLoading, hb]
    unfold State.takeBare
    split
    · exact .single hl fun _ _ => nofun
    · exact .single hl fun _ _ => nofun
  next ld hl => exact .holds hl
  next m hm =>
    unfold State.takeActive
    split
    · exact .ends _ _
    · unfold State.takeClassed
      split
      · exact State.takeImage_takes hm _ _
      next hc => exact State.takeRing_takes hm _ (classify_ring hc) _
      next hc => exact State.takeRecord_takes hm (by rw [Taken.recordOf, hc]) _
      · exact State.takePlain_takes hm _ _
      · exact State.takeUnmapped_takes hm _

end

end Sys2Proof.Machine
end

section
/-! PROOFS. RESET asserted (R173): the part stays as RESET left it, whatever the command; and at its
release the strobes still asserted are taken raw (R12, R173). -/

namespace Sys2Proof.Machine

/-! ## What RESET leaves, part by part -/

/-- The stores and claims of the part are empty, as RESET leaves them. -/
structure State.Emptied (s : State) : Prop where
  part : s.part = .bare
  engines : s.engines = Both.same Engine.empty
  granted : s.granted = none
  loaderClaim : s.loaderClaim = none
  noticeClaim : s.noticeClaim = none
  queue : s.queue = []

theorem State.HeldInReset.emptied {s : State} (h : s.HeldInReset) (hr : s.resetAsserted = true) :
    s.Emptied := by
  rw [h hr]
  exact ⟨rfl, rfl, rfl, rfl, rfl, rfl⟩

theorem State.Emptied.engine {s : State} (h : s.Emptied) (p : Port) :
    s.engines.get p = Engine.empty := by
  rw [h.engines, Both.get_same]

theorem State.Emptied.map {s : State} (h : s.Emptied) : s.map = none := by
  simp only [State.map, h.part]

/-- With no map in force and an empty queue the Notice Unit has nothing to choose. -/
theorem State.noticeChoice_of_bare {s : State} (hm : s.map = none) (hq : s.queue = []) :
    s.noticeChoice = none := by
  simp [State.noticeChoice, State.lossDue, State.ringPlace, hm, hq]

theorem State.Emptied.settled {s : State} (h : s.Emptied) : s.NoticeSettled :=
  .inr (.inr (State.noticeChoice_of_bare h.map h.queue))

theorem State.Emptied.rotate {s : State} (h : s.Emptied) : s.rotate = none := by
  have hw : ∀ r, s.waits r = false := by
    intro r
    cases r <;> simp only [State.waits, h.engines, h.noticeClaim] <;> rfl
  simp [State.rotate, hw]

/-! ## The part stays as RESET left it -/

theorem State.afterReset_held (s : State) : s.afterReset.HeldInReset := fun _ => rfl

/-- Pins with no ending line asserted leave the part as RESET left it. -/
theorem State.HeldInReset.setPins {s : State} (h : s.HeldInReset) (p : Port) {x : Pins}
    (hx : x.out = .quiet) : (s.setPins p x).HeldInReset := by
  intro hr
  have hs := h hr
  obtain ⟨strobe, out⟩ := x
  subst hx
  have hpins := congrArg State.pins hs
  rw [State.setPins, hs]
  cases p <;> rfl

theorem State.HeldInReset.out_quiet {s : State} (h : s.HeldInReset) (hr : s.resetAsserted = true)
    (p : Port) : (s.pins.get p).out = .quiet := by
  rw [h hr]
  cases p <;> rfl

/-- Lines presented while RESET is asserted change the lines alone (R173). -/
theorem State.present_in_reset {s : State} (h : s.Emptied) (hr : s.resetAsserted = true) (p : Port)
    (l : Lines) : s.present p l = s.setPins p { s.pins.get p with strobe := some l } := by
  have harr : s.arriving p l = (s.setPins p { s.pins.get p with strobe := some l }, []) := by
    simp [State.arriving, hr]
  have hset : (s.setPins p { s.pins.get p with strobe := some l }).NoticeSettled := h.settled
  rw [State.present, harr]
  exact State.chooseBeside_of_settled hset

theorem State.HeldInReset.ackHigh {s : State} (h : s.HeldInReset) (b : Bool) :
    { s with ackHigh := b }.HeldInReset := by
  intro hr
  exact congrArg (fun v : State => { v with ackHigh := b }) (h hr)

/-- While RESET is asserted an access finds no session, no capture and no claim to act on. -/
theorem State.Emptied.no_expiry {s : State} (h : s.Emptied) (p : Port) (w k : Nat) :
    s.holdExpiry p = none ∧ s.sessionExpiry p w k = none ∧ s.freeCapture p w k = s := by
  refine ⟨?_, ?_, ?_⟩
  · simp only [State.holdExpiry, h.engine, Engine.empty]
  · simp only [State.sessionExpiry, h.engine, Engine.empty, Engine.sessionOf, List.find?_nil]
  · have he : { s.engines.get p with captures := capturesBut w k (s.engines.get p).captures }
        = s.engines.get p := by
      rw [h.engine]
      rfl
    rw [State.freeCapture_eq, he, State.withPort_self]

/-- A command other than RESET and its release leaves what RESET left. -/
theorem Effect.held_of_asserted {s t : State} {c : Instr} (h : Effect s c t) (hh : s.HeldInReset)
    (hr : s.resetAsserted = true) : t.HeldInReset := by
  have he := hh.emptied hr
  have hbus : ∀ g, s.granted ≠ some g := fun g hg => by
    rw [he.granted] at hg
    cases hg
  have hload : ∀ ld, s.part ≠ .loading ld := fun ld hl => by
    rw [he.part] at hl
    cases hl
  cases h with
  | reset => exact s.afterReset_held
  | stays => exact hh
  | release _ =>
    intro hr'
    rw [(State.arriveBoth_inside _).resetAsserted] at hr'
    cases hr'
  | strobe => exact hh.setPins _ rfl
  | tick hn => rw [hr] at hn; cases hn
  | stray => exact hh.ackHigh _
  | ackReleased =>
    rw [he.granted]
    have hg : { s with ackHigh := false, granted := none } = { s with ackHigh := false } := by
      rw [← he.granted]
    exact hg ▸ hh.ackHigh false
  | access _ =>
    rw [State.present_in_reset he hr]
    exact hh.setPins _ (hh.out_quiet hr _)
  | grant =>
    rw [State.arbitrate_of_no_claim he.loaderClaim he.rotate,
      State.chooseNotice_of_settled he.settled]
    exact hh
  | word h | commitWord _ h | stale h => exact absurd h.1 (hbus _)
  | single h | count h | request h | stampRead h | committed h | captured h | entryBurst h
  | fullRingBurst h | lossReport h | inProgress h | imageRead h | header h | done h | failed h =>
    exact absurd h.1 (hbus _)
  | failedLate h | expires h => exact absurd h.1 (hbus _)
  | drained hl => exact absurd hl (hload _)
  | @hold p _ _ h =>
    rw [(he.no_expiry p 0 0).1] at h
    cases h
  | session h =>
    rw [(he.no_expiry _ _ _).2.1] at h
    cases h
  | captureLimit =>
    rw [(he.no_expiry _ _ _).2.2]
    exact hh

/-- R173: every command keeps the part as RESET left it while RESET is asserted. -/
theorem Effect.held {s t : State} {c : Instr} (h : Effect s c t) (hh : s.HeldInReset) :
    t.HeldInReset := by
  cases hr : s.resetAsserted with
  | true => exact h.held_of_asserted hh hr
  | false =>
    obtain ⟨-, rfl⟩ | ⟨-, hr', -⟩ | ⟨v, hv, hin⟩ := h.source
    · exact s.afterReset_held
    · rw [hr] at hr'
      cases hr'
    · intro hr'
      have hv' : v.resetAsserted = s.resetAsserted := by
        obtain rfl | ⟨-, g, w, rest, -, -, ⟨ans, rfl⟩ | rfl⟩ := hv
        · rfl
        · rw [s.answer_frame]
        · rw [s.landExpired_frame]
      rw [hin.resetAsserted, hv', hr] at hr'
      cases hr'

/-- What a step of the block keeps, from what every effect keeps, where the waiting commands do not
count. -/
theorem step_keeps {P Q : State → Prop} {s t : State} (hstep : step s = .next t)
    (hP : ∀ rest, P s → P { s with pending := rest }) (hPQ : P s → Q s)
    (heff : ∀ {u v : State} {c : Instr}, Effect u c v → P u → Q v) (h : P s) : Q t := by
  obtain rfl | ⟨c, rest, -, e⟩ := step_effect hstep
  · exact hPQ h
  · exact heff e (hP rest h)

theorem State.HeldInReset.pending {s : State} (h : s.HeldInReset) (rest : List Instr) :
    { s with pending := rest }.HeldInReset :=
  fun hr => congrArg (fun v : State => { v with pending := rest }) (h hr)

/-! ## The release of RESET -/

/-- In BARE an access is carried raw: one single operation, with no class (R12). -/
theorem State.takeAccess_of_bare {s : State} (p : Port) (l : Lines) (now : Time)
    (hb : s.part = .bare) :
    s.takeAccess p (l.latch now)
      = s.setEState p (.inMemory (l.latch now) none (.single (barePurpose s.straps l)) .waiting) := by
  have htake : s.takeBare p (l.latch now)
      = s.claim p (l.latch now) none (.single (barePurpose s.straps l)) := by
    unfold State.takeBare State.bareRequest barePurpose
    simp only [Lines.latch]
    cases l.dir with
    | read => rfl
    | write =>
      by_cases ha : l.addr = s.straps.imageBase
      · simp only [ha, if_true]
        cases requestLength s.straps.imgOrd l.be l.data <;> rfl
      · simp only [ha, if_false]
  simp only [State.takeAccess, State.taking, hb, received, State.raiseAll]
  exact htake

theorem State.arriveAtRelease_of_none {s : State} {p : Port} (h : (s.pins.get p).strobe = none) :
    s.arriveAtRelease p = s := by
  simp only [State.arriveAtRelease, h]

/-- A strobe still asserted is an arrival, carried raw since the part is BARE (R12, R173). -/
theorem State.arriveAtRelease_of_some {s : State} {p : Port} {l : Lines} (hb : s.part = .bare)
    (h : (s.pins.get p).strobe = some l) :
    s.arriveAtRelease p
      = s.setEState p (.inMemory (l.latch s.timebase) none (.single (barePurpose s.straps l))
          .waiting) := by
  simp only [State.arriveAtRelease, h]
  exact State.takeAccess_of_bare p l _ hb

/-- What the release of RESET takes at each port changes that port's engine alone. -/
theorem State.arriveAtRelease_frame {s : State} (p : Port) (hb : s.part = .bare) :
    s.arriveAtRelease p = { s with engines := (s.arriveAtRelease p).engines } := by
  cases h : (s.pins.get p).strobe with
  | none => rw [State.arriveAtRelease_of_none h]
  | some l => rw [State.arriveAtRelease_of_some hb h]; rfl

/-- The state and the claims of two arrivals at the release, as the statement of R173 has them. -/
def State.arriveRaw (s : State) (st : Straps) (p : Port) (x : State) : State :=
  match (s.pins.get p).strobe with
  | none => x
  | some l =>
    { x with
      engines := x.engines.set p
        { x.engines.get p with
          estate := .inMemory (l.latch 0) none (.single (barePurpose st l)) .waiting } }

theorem State.arriveAtRelease_eq {s x : State} {st : Straps} (p : Port) (hb : x.part = .bare)
    (hst : x.straps = st) (htime : x.timebase = 0) (hpins : x.pins = s.pins) :
    x.arriveAtRelease p = s.arriveRaw st p x := by
  subst hst
  unfold State.arriveRaw
  cases h : (s.pins.get p).strobe with
  | none => exact State.arriveAtRelease_of_none (by rw [hpins, h])
  | some l =>
    have hl : l.latch x.timebase = l.latch 0 := by rw [htime]
    rw [State.arriveAtRelease_of_some hb (by rw [hpins, h]), hl]
    rfl

/-- The ports' arrivals at the release leave what the next one needs. -/
theorem State.arriveRaw_frame (s : State) (st : Straps) (p : Port) (x : State) :
    s.arriveRaw st p x = { x with engines := (s.arriveRaw st p x).engines } := by
  unfold State.arriveRaw
  split <;> rfl

/-- Settles O5: the two arrivals in the order that the free value gives, each as one raw claim. -/
theorem releaseOfResetTakesTheStrobes : Obligations.ReleaseOfResetTakesTheStrobes := by
  intro ib io ck s hr hb st r arrive both
  have hexec : exec (.resetRelease ib io ck) s = .next (r s.freeCount).arriveBoth := by
    change execResetRelease ib io ck s = _
    simp only [execResetRelease, hr, if_true]
    rfl
  have harr : ∀ p (x : State), x.part = .bare → x.straps = st → x.timebase = 0 → x.pins = s.pins →
      x.arriveAtRelease p = arrive p x :=
    fun p x h1 h2 h3 h4 => State.arriveAtRelease_eq (s := s) p h1 h2 h3 h4
  have hframe : ∀ p x, arrive p x = { x with engines := (arrive p x).engines } :=
    fun p x => s.arriveRaw_frame st p x
  have hfirst : ∀ n p, (r n).arriveAtRelease p = arrive p (r n) :=
    fun n p => harr p _ hb rfl rfl rfl
  have hsecond : ∀ n p q, (arrive p (r n)).arriveAtRelease q = arrive q (arrive p (r n)) := by
    intro n p q
    refine harr q _ ?_ ?_ ?_ ?_ <;> rw [hframe]
    exact hb
  have hgranted : ∀ n p q, (arrive p (r n)).arbitrate.arriveAtRelease q
      = arrive q (arrive p (r n)).arbitrate := by
    intro n p q
    have hw := (arrive p (r n)).arbitrate_work
    refine harr q _ ?_ ?_ ?_ ?_ <;> rw [hw] <;> dsimp only <;> rw [hframe]
    exact hb
  rw [hexec]
  constructor
  · intro hn
    have hif : ¬ ((r s.freeCount).pins.a.strobe.isSome && (r s.freeCount).pins.b.strobe.isSome) = true := by
      rw [Bool.and_eq_true]
      exact hn
    rw [State.arriveBoth, if_neg hif, hfirst, hsecond]
  · intro hboth
    have hif : ((r s.freeCount).pins.a.strobe.isSome && (r s.freeCount).pins.b.strobe.isSome) = true := by
      rw [Bool.and_eq_true]
      exact hboth
    rw [State.arriveBoth, if_pos hif]
    change Host.Outcome.next (match Config.freeOrder s.freeCount with
      | .together => ((r (s.freeCount + 1)).arriveAtRelease .a).arriveAtRelease .b
      | .first => ((r (s.freeCount + 1)).arriveAtRelease .a).arbitrate.arriveAtRelease .b
      | .second => ((r (s.freeCount + 1)).arriveAtRelease .b).arbitrate.arriveAtRelease .a) = _
    cases Config.freeOrder s.freeCount with
    | together => simp only [hfirst, hsecond]
    | first => simp only [hfirst, hgranted]
    | second => simp only [hfirst, hgranted]

end Sys2Proof.Machine
end

section
/-! PROOFS. The attention lines (R135) and the Notice Unit's choice (R123): the work that leaves a
ring's counts and SHADOW alone, and the commands that change them or the choice. -/

namespace Sys2Proof.Machine

/-! ## Rings that keep their counts -/

/-- Every ring keeps PROD, CONS, LOST and SHADOW. -/
def State.RingsCalm (s t : State) : Prop :=
  ∀ q, ∃ plost lrep watch,
    t.rings.get q = { s.rings.get q with plost := plost, lrep := lrep, watch := watch }

theorem State.RingsCalm.of_eq {s t : State} (h : t.rings = s.rings) : s.RingsCalm t :=
  fun q => ⟨_, _, _, congrArg (fun r : Both Ring => r.get q) h⟩

theorem State.RingsCalm.trans {s t u : State} (h : s.RingsCalm t) (h' : t.RingsCalm u) :
    s.RingsCalm u := by
  intro q
  obtain ⟨a, b, c, h1⟩ := h q
  obtain ⟨a', b', c', h2⟩ := h' q
  exact ⟨a', b', c', by rw [h2, h1]⟩

theorem State.RingsCalm.shadow {s t : State} (h : s.RingsCalm t) (q : Port) :
    (t.rings.get q).shadow = (s.rings.get q).shadow := by
  obtain ⟨_, _, _, h⟩ := h q
  rw [h]

/-- A ring replaced by one with the same counts and SHADOW. -/
theorem State.setRing_calm (s : State) (q : Port) (plost : Count) (lrep : Bool)
    (watch : Option Port) :
    s.RingsCalm (s.setRing q
      { s.rings.get q with plost := plost, lrep := lrep, watch := watch }) := by
  intro x
  by_cases hx : x = q
  · subst hx
    exact ⟨plost, lrep, watch, Both.get_set_self _ _ _⟩
  · exact ⟨_, _, _, Both.get_set_ne _ _ hx⟩

theorem State.countLost_calm (s : State) (d : Both Bool) : s.RingsCalm (s.countLost d) := by
  intro q
  rw [State.countLost_rings_get]
  split
  · exact ⟨_, _, _, rfl⟩
  · exact ⟨_, _, _, rfl⟩

/-- A notice received changes the queue, or the lost counts of the rings or of the ports (R118 to R120,
R136). -/
theorem State.raise_cases (s : State) (r : Report) :
    s.raise r = s ∨ (∃ n d deferred, s.queue.length < 8 ∧ s.raise r = s.enqueue n d deferred)
      ∨ (∃ d, s.raise r = s.countLost d) ∨ ∃ d, s.raise r = s.countDeferredLost d := by
  unfold State.raise
  split
  · exact .inl rfl
  · dsimp only
    split
    · split
      next hroom => exact .inr (.inl ⟨_, _, _, hroom, rfl⟩)
      next => exact .inr (.inr (.inr ⟨_, rfl⟩))
    · split
      · exact .inl rfl
      · split
        next hroom => exact .inr (.inl ⟨_, _, _, hroom, rfl⟩)
        next => exact .inr (.inr (.inl ⟨_, rfl⟩))

theorem State.raise_calm (s : State) (r : Report) : s.RingsCalm (s.raise r) := by
  obtain h | ⟨n, d, b, -, h⟩ | ⟨d, h⟩ | ⟨d, h⟩ := s.raise_cases r <;> rw [h]
  · exact .of_eq rfl
  · exact .of_eq rfl
  · exact s.countLost_calm d
  · exact .of_eq rfl

theorem State.unwatch_calm (s : State) (job : Job) : s.RingsCalm (s.unwatch job) := by
  unfold State.unwatch
  split
  · exact s.setRing_calm _ _ _ _
  · exact .of_eq rfl

theorem State.dropJob_calm (s : State) (p : Port) (t : Option Taken) (job : Job) :
    s.RingsCalm (s.dropJob p t job) := by
  unfold State.dropJob
  cases job with
  | single purpose => exact s.unwatch_calm _
  | _ => exact .of_eq rfl

theorem State.holdExpiry_calm {s t : State} {p : Port} {r : Report}
    (h : s.holdExpiry p = some (t, r)) : s.RingsCalm t := by
  unfold State.holdExpiry at h
  split at h
  · split at h <;> cases h
    exact .of_eq rfl
  · split at h <;> cases h
    exact (s.dropJob_calm _ _ _).trans (.of_eq rfl)
  · cases h

theorem State.sessionExpiry_calm {s t : State} {p : Port} {w k : Nat} {r : Report}
    (h : s.sessionExpiry p w k = some (t, r)) : s.RingsCalm t := by
  unfold State.sessionExpiry at h
  repeat' split at h
  all_goals cases h
  exact .of_eq rfl

theorem State.withPort_calm (s : State) (p : Port) (e : Engine) (x : Pins) :
    s.RingsCalm (s.withPort p e x) := .of_eq rfl

theorem State.Takes.calm {s : State} {p : Port} {acc : Access} {x : State × List Report}
    (h : s.Takes p acc x) : s.RingsCalm x.1 := by
  cases h with
  | ends | holds | single => exact .of_eq rfl
  | watched => exact (s.setRing_calm _ _ _ _).trans (.of_eq rfl)
  | staged | serves | takes =>
    simp only [State.stageWrite_eq, State.serve_eq, State.takeCapture_eq]
    first
    | exact s.withPort_calm _ _ _
    | (split <;> exact s.withPort_calm _ _ _)
  | opens _ _ hses =>
    cases hpol : (s.spec _).policy with
    | guarded =>
      rw [State.openSession_guarded _ _ _ _ _ _ _ hpol]
      exact s.withPort_calm _ _ _
    | last =>
      rw [State.openSession_last _ _ _ _ _ _ hpol hses]
      dsimp only
      split <;> exact s.withPort_calm _ _ _

theorem State.startNotice_calm (s : State) (c : NoticeClaim) : s.RingsCalm (s.startNotice c) := by
  unfold State.startNotice
  split
  · split <;> exact .of_eq rfl
  · split
    · dsimp only
      split
      · exact .of_eq rfl
      · exact (s.setRing_calm _ _ _ _).trans (.of_eq rfl)
    · exact .of_eq rfl

theorem State.startPort_rings (s : State) (p : Port) : (s.startPort p).rings = s.rings := by
  unfold State.startPort
  split
  · dsimp only
    split
    · rfl
    · rfl
    · rfl
    · unfold State.startCommit
      dsimp only
      split <;> rfl
  · rfl

theorem State.startLoader_rings (s : State) (c : LoaderClaim) :
    (s.startLoader c).rings = s.rings := by
  unfold State.startLoader
  repeat' split
  all_goals rfl

theorem State.Grants.calm {s t : State} (h : s.Grants t) : s.RingsCalm t := by
  cases h with
  | nothing => exact .of_eq rfl
  | loader => exact .of_eq (State.startLoader_rings _ _)
  | port => exact .of_eq (State.startPort_rings _ _)
  | notice =>
    exact (State.RingsCalm.of_eq (t := { s with pointer := _, noticeClaim := none }) rfl).trans
      (State.startNotice_calm _ _)

/-- The shared operations keep the counts and SHADOW of every ring. -/
theorem State.kept_calm (s : State) : Kept s.RingsCalm where
  free _ h := h
  raise r h := h.trans (State.raise_calm _ r)
  choose h := h.trans (.of_eq (by rw [State.chooseNotice_frame]))
  grants hg h := h.trans hg.calm
  pins _ _ h := h
  drop _ h := h
  taking acc _ h := h.trans (State.taking_takes _ _ acc).calm
  hold hx h := h.trans (State.holdExpiry_calm hx)
  session hx h := h.trans (State.sessionExpiry_calm hx)

theorem State.releaseDeferred_calm (s : State) : s.RingsCalm s.releaseDeferred := by
  unfold State.releaseDeferred
  split
  · exact .of_eq rfl
  · intro q
    cases q <;> dsimp only [Both.get] <;> unfold Ring.addDeferred <;> split <;>
      exact ⟨_, _, _, rfl⟩

theorem State.withdraw_calm (s : State) (p : Port) : s.RingsCalm (s.withdraw p) := by
  unfold State.withdraw
  split
  · exact (s.unwatch_calm _).trans (.of_eq rfl)
  · exact .of_eq rfl

theorem State.emptyForLoad_calm (s : State) (p : Port) : s.RingsCalm (s.emptyForLoad p) := by
  unfold State.emptyForLoad
  dsimp only
  split
  · exact .of_eq rfl
  · exact (s.withdraw_calm p).trans (.of_eq rfl)

theorem State.raiseAll_calm (s : State) (l : List Report) : s.RingsCalm (s.raiseAll l) :=
  s.kept_calm.raiseAll l (.of_eq rfl)

theorem State.clearIfLoading_calm (s : State) (p : Port) : s.RingsCalm (s.clearIfLoading p) := by
  unfold State.clearIfLoading
  split
  · exact (s.emptyForLoad_calm p).trans (State.raiseAll_calm _ _)
  · exact .of_eq rfl

theorem State.stageWrite_calm (s : State) (p : Port) (acc : Access) (t : Taken) (ses : Session)
    (o : Nat) : s.RingsCalm (s.stageWrite p acc t ses o) := by
  rw [State.stageWrite_eq]
  split <;> exact s.withPort_calm _ _ _

/-! ## The attention lines -/

/-- The lines are right exactly if each is what evaluating it afresh gives (R135). -/
theorem State.attentionRight_iff (s : State) :
    s.AttentionRight ↔ ∀ p, s.attn.get p = s.attention p := by
  refine forall_congr' fun p => Iff.trans (iff_congr Iff.rfl ?_) Bool.eq_iff_iff.symm
  cases hm : s.map with
  | none => simp [State.attention, hm]
  | some m =>
    cases hpl : m.rings.get p with
    | none => simp [State.attention, hm, hpl]
    | some pl => simp [State.attention_iff hm hpl, hpl]

/-- Attention lines, the map in force and every SHADOW are as they were. -/
structure State.LinesCalm (s t : State) : Prop where
  attn : t.attn = s.attn
  map : t.map = s.map
  shadow : ∀ q, (t.rings.get q).shadow = (s.rings.get q).shadow

theorem State.LinesCalm.trans {s t u : State} (h : s.LinesCalm t) (h' : t.LinesCalm u) :
    s.LinesCalm u :=
  ⟨h'.attn.trans h.attn, h'.map.trans h.map, fun q => (h'.shadow q).trans (h.shadow q)⟩

theorem State.LinesCalm.attention {s t : State} (h : s.LinesCalm t) (p : Port) :
    t.attention p = s.attention p := by
  simp only [State.attention, h.map, Ring.meets, h.shadow]

theorem State.LinesCalm.right {s t : State} (h : s.LinesCalm t) (hr : s.AttentionRight) :
    t.AttentionRight := by
  rw [State.attentionRight_iff] at *
  intro p
  rw [h.attn, h.attention, hr p]

theorem State.LinesCalm.of_port {s t : State} (h : s.PortWork t) (hc : s.RingsCalm t) :
    s.LinesCalm t := ⟨by rw [h], h.map, hc.shadow⟩

theorem State.ArbiterWork.map {s t : State} (h : s.ArbiterWork t) : t.map = s.map := by
  rw [h]
  rfl

theorem State.LinesCalm.of_arbiter {s t : State} (h : s.ArbiterWork t) (hc : s.RingsCalm t) :
    s.LinesCalm t := ⟨by rw [h], h.map, hc.shadow⟩

theorem State.Grants.work {s t : State} (h : s.Grants t) : s.ArbiterWork t := by
  cases h with
  | nothing => rfl
  | loader _ _ => exact State.ArbiterWork.trans (by rfl) (State.startLoader_work _ _)
  | port _ _ _ => exact State.ArbiterWork.trans (by rfl) (State.startPort_work _ _)
  | notice _ _ _ => exact State.ArbiterWork.trans (by rfl) (State.startNotice_work _ _)

/-- The shared operations keep the lines and what they are evaluated from. -/
theorem State.kept_lines (s : State) : Kept s.LinesCalm where
  free _ h := ⟨h.attn, h.map, h.shadow⟩
  raise r h := h.trans (.of_port (State.raise_work _ r) (State.raise_calm _ r))
  choose h := h.trans (.of_arbiter (State.chooseNotice_work _) (.of_eq (by
    rw [State.chooseNotice_frame])))
  grants hg h := h.trans (.of_arbiter hg.work hg.calm)
  pins _ _ h := ⟨h.attn, h.map, h.shadow⟩
  drop _ h := ⟨h.attn, h.map, h.shadow⟩
  taking acc _ h := h.trans (.of_port (State.taking_work _ _ acc) (State.taking_takes _ _ acc).calm)
  hold hx h := h.trans (.of_port (State.holdExpiry_work hx) (State.holdExpiry_calm hx))
  session hx h := h.trans (.of_port (State.sessionExpiry_work hx) (State.sessionExpiry_calm hx))

theorem State.LinesCalm.refl (s : State) : s.LinesCalm s := ⟨rfl, rfl, fun _ => rfl⟩

/-- A ring replaced and its line evaluated afresh: the lines are right. -/
theorem State.AttentionRight.evaluate {s t : State} {q : Port} (h : s.AttentionRight)
    (hattn : t.attn = s.attn) (hmap : t.map = s.map)
    (hother : t.rings.get q.other = s.rings.get q.other) :
    (t.evaluateAttention q).AttentionRight := by
  rw [State.attentionRight_iff] at *
  intro p
  change (t.attn.set q (t.attention q)).get p = t.attention p
  by_cases hp : p = q
  · subst hp
    rw [Both.get_set_self]
  · have hq : p = q.other := by cases p <;> cases q <;> first | rfl | exact absurd rfl hp
    subst hq
    rw [Both.get_set_other, hattn, h]
    simp only [State.attention, hmap, hother]

theorem State.AttentionRight.setRing_evaluate {s : State} (h : s.AttentionRight) (q : Port)
    (r : Ring) : ((s.setRing q r).evaluateAttention q).AttentionRight :=
  State.AttentionRight.evaluate h rfl rfl (Both.get_set_other _ _ _)

theorem State.AttentionRight.setRing_handled_evaluate {s : State} (h : s.AttentionRight) (q : Port)
    (r : Ring) : (((s.setRing q r).handled q).evaluateAttention q).AttentionRight :=
  State.AttentionRight.evaluate h rfl rfl (Both.get_set_other _ _ _)

theorem State.answered_lines (s : State) (w : WordAccess) (ans : Answer) :
    s.LinesCalm (s.answered w ans) := by
  rw [State.answered, s.answer_frame]
  exact ⟨rfl, rfl, fun _ => rfl⟩

theorem State.expired_lines (s : State) (w : WordAccess) : s.LinesCalm (s.expired w) := by
  rw [State.expired, s.landExpired_frame]
  exact ⟨rfl, rfl, fun _ => rfl⟩

theorem State.answer_lines (s : State) (w : WordAccess) (ans : Answer) :
    s.LinesCalm (s.answer w ans) := by
  rw [s.answer_frame]
  exact ⟨rfl, rfl, fun _ => rfl⟩

theorem State.issue_lines (s : State) (op : Op) (todo : List WordAccess) (done : Nat)
    (got : List Word) : s.LinesCalm (s.issue op todo done got) := ⟨rfl, rfl, fun _ => rfl⟩

/-- A producer word reported leaves every SHADOW as it was (R126, R127). -/
theorem State.answered_reported (s : State) (w : WordAccess) (ans : Answer) (q : Port)
    (carried : Count) (x : Port) :
    (((s.answered w ans).setRing q ((s.rings.get q).reported w.data carried)).rings.get x).shadow
      = ((s.answered w ans).rings.get x).shadow := by
  rw [State.setRing_rings, State.answered_rings]
  by_cases hx : x = q
  · rw [hx, Both.get_set_self]
    rfl
  · rw [Both.get_set_ne _ _ hx]

theorem State.endLoad_lines (s : State) (ld : Load) (order : EndOrder) :
    s.LinesCalm (s.endLoad ld order) :=
  s.kept_lines.endLoad ld order (.of_port s.releaseDeferred_work s.releaseDeferred_calm)

/-- A load from a map returns to it (R158). -/
theorem Load.fromState_map {s : State} {ld : Load} (hl : s.part = .loading ld) :
    { s with part := ld.fromState }.map = s.map := by
  simp only [State.map, Load.fromState, hl]
  cases ld.from? <;> rfl

theorem State.endFailed_lines {s : State} {ld : Load} (order : EndOrder)
    (hl : s.part = .loading ld) : s.LinesCalm (s.endFailed ld order) :=
  State.LinesCalm.trans (t := { s with part := ld.fromState })
    ⟨rfl, Load.fromState_map hl, fun _ => rfl⟩ (State.endLoad_lines _ ld order)

theorem State.toPhase_lines {s : State} {ld : Load} (ph : Phase) (hl : s.part = .loading ld) :
    s.LinesCalm (s.toPhase ld ph) := by
  refine ⟨rfl, ?_, fun _ => rfl⟩
  simp only [State.map, State.toPhase, hl]

theorem State.claimStatus_lines (s : State) (r : LoadResult) (w q t : BitVec 8) :
    s.LinesCalm (s.claimStatus r w q t) := ⟨rfl, rfl, fun _ => rfl⟩

theorem State.failLoad_lines {s : State} {ld : Load} (r : LoadResult)
    (hl : s.part = .loading ld) : s.LinesCalm (s.failLoad ld r) :=
  (State.toPhase_lines .reporting hl).trans (State.claimStatus_lines _ _ _ _ _)

theorem State.claimInstall_lines (s : State) (cand : RecordMap) :
    s.LinesCalm (s.claimInstall cand) := by
  unfold State.claimInstall
  repeat' split
  all_goals exact ⟨rfl, rfl, fun _ => rfl⟩

theorem State.claimAfterHeader_lines (s : State) (cand : RecordMap) (q : Port) :
    s.LinesCalm (s.claimAfterHeader cand q) := by
  unfold State.claimAfterHeader
  repeat' split
  all_goals exact ⟨rfl, rfl, fun _ => rfl⟩

theorem State.applyVerdict_lines {s : State} {ld : Load} (v : Verdict)
    (hl : s.part = .loading ld) : s.LinesCalm (s.applyVerdict ld v) := by
  cases v with
  | fails r => exact State.failLoad_lines r hl
  | passes cand => exact (State.toPhase_lines _ hl).trans (State.claimInstall_lines _ cand)

theorem State.enterLoading_lines (s : State) (p : Port) (n : Nat) :
    s.LinesCalm (s.enterLoading p n) := ⟨rfl, rfl, fun _ => rfl⟩

theorem State.beginLoad_lines (s : State) (p : Port) (n : Nat) (gf : Bool) (entry : EntryOrder) :
    s.LinesCalm (s.beginLoad p n gf entry) := by
  have hempty : ∀ (v : State) q, v.LinesCalm (v.emptyForLoad q) :=
    fun v q => .of_port (v.emptyForLoad_work q) (v.emptyForLoad_calm q)
  have hevents := s.kept_lines.grantIf gf (s.kept_lines.takeEvents entry.events (.refl s))
  exact (((hevents.trans (State.enterLoading_lines _ p n)).trans (hempty _ .a)).trans
    (hempty _ .b)).trans (.of_port (State.raiseAll_work _ _) (State.raiseAll_calm _ _))

theorem State.endStale_lines (s : State) (p : Port) (acc : Access) (ses : Session) (found : Count)
    (gf : Bool) : s.LinesCalm (s.endStale p acc ses found gf) :=
  s.kept_lines.chooseAfter gf (s.kept_lines.raise _ ⟨rfl, rfl, fun _ => rfl⟩)

theorem State.fillCapture_calm (s : State) (p : Port) (acc : Access) (t : Taken) (c : Capture)
    (words : List Word) : s.RingsCalm (s.fillCapture p acc t c words) := by
  unfold State.fillCapture
  dsimp only
  rw [State.serve_eq]
  refine State.RingsCalm.trans ?_ (State.withPort_calm _ _ _ _)
  split
  · exact s.raise_calm _
  · exact .of_eq rfl

theorem State.chooseAfter_lines (s : State) (b : Bool) : s.LinesCalm (s.chooseAfter b) :=
  s.kept_lines.chooseAfter b (.refl s)

theorem State.chooseNotice_lines (s : State) : s.LinesCalm s.chooseNotice :=
  s.kept_lines.choose (.refl s)

theorem State.grantIf_lines (s : State) (b : Bool) : s.LinesCalm (s.grantIf b) :=
  s.kept_lines.grantIf b (.refl s)

theorem State.expireSingle_calm (s : State) (p : Port) : s.RingsCalm (s.expireSingle p) := by
  unfold State.expireSingle
  split
  · dsimp only
    have hend : ∀ v : State, ∀ acc, v.RingsCalm (v.endFault p acc) := fun _ _ => .of_eq rfl
    split
    · exact (s.unwatch_calm _).trans (hend _ _)
    · exact ((s.unwatch_calm _).trans (hend _ _)).trans (State.raise_calm _ _)
  · exact .of_eq rfl

theorem State.expireStampRead_lines (s : State) (p : Port) : s.LinesCalm (s.expireStampRead p) := by
  unfold State.expireStampRead
  split
  next acc t _ =>
    have h : s.LinesCalm ((s.freeSession p t.recordOf.1 t.recordOf.2.1).endFault p acc) :=
      ⟨rfl, rfl, fun _ => rfl⟩
    exact s.kept_lines.free _ (s.kept_lines.raise _ h)
  · exact .refl s

theorem State.expireCapture_lines (s : State) (p : Port) (g : Granted) :
    s.LinesCalm (s.expireCapture p g) := by
  unfold State.expireCapture
  split
  · exact s.kept_lines.raise _ ⟨rfl, rfl, fun _ => rfl⟩
  · exact .refl s

theorem State.expireReading_lines (s : State) (p : Port) (w : WordAccess) :
    s.LinesCalm (s.expireReading p w) := by
  unfold State.expireReading
  split
  · exact s.kept_lines.raise _ ⟨rfl, rfl, fun _ => rfl⟩
  · exact .refl s

theorem State.enterTorn_lines (s : State) (base : WAddr) (window : Nat) :
    s.LinesCalm (s.enterTorn base window) := by
  unfold State.enterTorn
  dsimp only
  repeat' split
  · exact .refl s
  · exact ⟨rfl, rfl, fun _ => rfl⟩
  · exact .refl s
  · exact s.kept_lines.raise _ ⟨rfl, rfl, fun _ => rfl⟩

theorem State.expireWriting_lines (s : State) (p : Port) (g : Granted) :
    s.LinesCalm (s.expireWriting p g) := by
  unfold State.expireWriting
  split
  · refine s.kept_lines.raise _ ((s.enterTorn_lines _ _).trans ⟨rfl, rfl, fun _ => rfl⟩)
  · exact .refl s

theorem State.expireNotice_calm (s : State) (p : Port) (entry handles : Bool) :
    s.RingsCalm (s.expireNotice p entry handles) := by
  have h := s.setRing_calm p
    (if entry = true then satAdd (s.rings.get p).plost 1 else (s.rings.get p).plost) false
    (s.rings.get p).watch
  unfold State.expireNotice
  dsimp only
  split
  · exact h.trans (.of_eq rfl)
  · exact h

theorem State.expireLoader_lines (s : State) (order : EndOrder) :
    s.LinesCalm (s.expireLoader order) := by
  have hgrant := s.grantIf_lines order.grantAtEnd
  have hpart : (s.grantIf order.grantAtEnd).part = s.part := by rw [s.grantIf_work]
  unfold State.expireLoader
  dsimp only
  split
  next ld hl =>
    rw [← hpart] at hl
    split
    · split
      · exact hgrant.trans (State.endFailed_lines order hl)
      · exact hgrant.trans (State.failLoad_lines _ hl)
    · exact hgrant.trans (State.failLoad_lines _ hl)
  · exact .refl s

theorem State.expire_lines (s : State) (g : Granted) (w : WordAccess) (order : EndOrder) :
    s.LinesCalm (s.expire g w order) := by
  have hnotice : ∀ p entry handles, s.LinesCalm (s.expireNotice p entry handles) :=
    fun p e h => .of_port (s.expireNotice_work p e h) (s.expireNotice_calm p e h)
  unfold State.expire
  split
  · exact s.kept_lines.chooseAfter _ (.of_port (s.expireSingle_work _) (s.expireSingle_calm _))
  · exact s.kept_lines.chooseAfter _ (s.expireStampRead_lines _)
  · exact s.kept_lines.chooseAfter _ (s.expireCapture_lines _ _)
  · exact s.kept_lines.chooseAfter _ (s.expireReading_lines _ _)
  · exact s.kept_lines.chooseAfter _ (s.expireWriting_lines _ _)
  · exact s.kept_lines.chooseAfter _ (hnotice _ _ _)
  · exact s.kept_lines.chooseAfter _ (hnotice _ _ _)
  · exact s.kept_lines.chooseAfter _ (hnotice _ _ _)
  · exact s.kept_lines.choose (s.expireLoader_lines _)
  · exact s.kept_lines.choose (s.expireLoader_lines _)
  · exact s.kept_lines.choose (s.expireLoader_lines _)

/-- A ring just installed holds no notice. -/
theorem freshRing_meets (pl : Option RingPlace) (thresh : Nat) :
    (freshRing pl).meets thresh = false := by
  cases pl with
  | none => rfl
  | some pl => simp [freshRing, Ring.meets]

/-- The lines are deasserted as a map is installed, and its rings hold no notice (R157). -/
theorem State.install_attentionRight (s : State) (cand : RecordMap) :
    (s.install cand).AttentionRight := by
  rw [State.attentionRight_iff]
  intro p
  have hring : (s.install cand).rings.get p = freshRing (cand.rings.get p) := by cases p <;> rfl
  have hmap : (s.install cand).map = some cand := rfl
  simp only [State.attention, hmap, hring, freshRing_meets, Bool.and_false]
  exact Both.get_same _ _

theorem State.arriveBoth_lines (s : State) : s.LinesCalm s.arriveBoth := by
  have harr : ∀ (v : State) p, v.LinesCalm (v.arriveAtRelease p) := by
    intro v p
    refine .of_port (v.arriveAtRelease_work p) ?_
    unfold State.arriveAtRelease
    split
    · exact .of_eq rfl
    · exact (State.taking_takes _ _ _).calm.trans (State.raiseAll_calm _ _)
  have hgrant : ∀ v : State, v.LinesCalm v.arbitrate := fun v => v.grantIf_lines true
  have hfree : s.LinesCalm { s with freeCount := s.freeCount + 1 } := ⟨rfl, rfl, fun _ => rfl⟩
  unfold State.arriveBoth
  split
  · dsimp only
    split
    · exact (hfree.trans (harr _ _)).trans (harr _ _)
    · exact ((hfree.trans (harr _ _)).trans (hgrant _)).trans (harr _ _)
    · exact ((hfree.trans (harr _ _)).trans (hgrant _)).trans (harr _ _)
  · exact (harr s _).trans (harr _ _)

theorem State.endReady_lines (s : State) (p : Port) (acc : Access) (w : Word) :
    s.LinesCalm (s.endReady p acc w) := ⟨rfl, rfl, fun _ => rfl⟩

theorem State.healTorn_lines (s : State) (base : WAddr) (w : Nat) :
    s.LinesCalm (s.healTorn base w) := ⟨rfl, rfl, fun _ => rfl⟩

theorem State.freeSession_lines (s : State) (p : Port) (w k : Nat) :
    s.LinesCalm (s.freeSession p w k) := ⟨rfl, rfl, fun _ => rfl⟩

theorem State.stageWrite_lines (s : State) (p : Port) (acc : Access) (t : Taken) (ses : Session)
    (o : Nat) : s.LinesCalm (s.stageWrite p acc t ses o) :=
  .of_port (s.stageWrite_work p acc t ses o) (s.stageWrite_calm p acc t ses o)

theorem State.clearIfLoading_lines (s : State) (p : Port) : s.LinesCalm (s.clearIfLoading p) :=
  .of_port (s.clearIfLoading_work p) (s.clearIfLoading_calm p)

theorem State.fillCapture_lines (s : State) (p : Port) (acc : Access) (t : Taken) (c : Capture)
    (words : List Word) : s.LinesCalm (s.fillCapture p acc t c words) :=
  .of_port (s.fillCapture_work p acc t c words) (s.fillCapture_calm p acc t c words)

theorem State.takeCount_attentionRight {s : State} (q : Port) (n : Count) (h : s.AttentionRight) :
    (s.takeCount q n).AttentionRight :=
  h.setRing_evaluate q _

/-- Every command keeps each attention line right: a ring's SHADOW changes with its line evaluated
afresh, or as a map is installed with the lines deasserted. -/
theorem Effect.attentionRight {s t : State} {c : Instr} (h : Effect s c t)
    (hr : s.AttentionRight) : t.AttentionRight := by
  have hans : ∀ w ans, s.LinesCalm (s.answered w ans) := fun w ans => s.answered_lines w ans
  cases h with
  | stays => exact hr
  | reset =>
    rw [State.attentionRight_iff]
    intro p
    cases p <;> rfl
  | release =>
    refine (State.LinesCalm.trans (t := s.released _) ?_ (State.arriveBoth_lines _)).right hr
    exact ⟨rfl, rfl, fun _ => rfl⟩
  | strobe | tick | stray | ackReleased | captureLimit =>
    exact State.LinesCalm.right ⟨rfl, rfl, fun _ => rfl⟩ hr
  | access => exact (s.kept_lines.present _ _ (.refl s)).right hr
  | grant => exact (s.kept_lines.choose (s.kept_lines.arbitrate (.refl s))).right hr
  | word => exact ((s.answer_lines _ _).trans (State.issue_lines _ _ _ _ _)).right hr
  | @commitWord _ ans _ w rest =>
    refine ((s.answer_lines w ans).trans ?_).right hr
    cases rest <;> exact State.issue_lines _ _ _ _ _
  | single => exact ((hans _ _).trans (State.endReady_lines _ _ _ _)).right hr
  | committed =>
    exact ((((hans _ _).trans (State.healTorn_lines _ _ _)).trans
      (State.freeSession_lines _ _ _ _)).trans (State.endReady_lines _ _ _ _)).right hr
  | @count ans _ w p q acc _ n =>
    exact (State.endReady_lines _ p acc 0).right
      (State.takeCount_attentionRight q n ((hans w ans).right hr))
  | @request ans gf entry _ w p acc _ n =>
    have hend : s.LinesCalm ((s.answered w ans).endReady p acc 0) :=
      (hans w ans).trans (State.endReady_lines _ p acc 0)
    split
    · exact hend.right hr
    · exact ((hend.trans (State.grantIf_lines _ _)).trans
        ((State.beginLoad_lines _ _ _ _ _).trans (State.chooseNotice_lines _))).right hr
  | stampRead =>
    exact ((((hans _ _).trans (State.stageWrite_lines _ _ _ _ _ _)).trans
      (State.clearIfLoading_lines _ _)).trans (State.chooseNotice_lines _)).right hr
  | stale => exact ((s.answer_lines _ _).trans (State.endStale_lines _ _ _ _ _ _)).right hr
  | captured =>
    exact ((((hans _ _).trans (State.fillCapture_lines _ _ _ _ _ _)).trans
      (State.clearIfLoading_lines _ _)).trans (State.chooseAfter_lines _ _)).right hr
  | @entryBurst ans _ w q carried =>
    exact (State.chooseNotice_lines _).right
      (((hans w ans).right hr).setRing_handled_evaluate q _)
  | @fullRingBurst ans _ w q carried _ _ | @lossReport ans _ w q carried _ _ =>
    have hring := s.answered_reported w ans q carried
    exact (State.chooseNotice_lines _).right (State.LinesCalm.right (s := s.answered w ans)
      ⟨rfl, rfl, hring⟩ ((hans w ans).right hr))
  | inProgress h hop hl =>
    exact ((hans _ _).trans (State.toPhase_lines _ (by simpa using hl))).right hr
  | drained hl =>
    exact ((State.toPhase_lines _ hl).trans ⟨rfl, rfl, fun _ => rfl⟩).right hr
  | imageRead h hop hl =>
    exact ((hans _ _).trans (State.applyVerdict_lines _ (by simpa using hl))).right hr
  | header => exact ((hans _ _).trans (State.claimAfterHeader_lines _ _ _)).right hr
  | done => exact (State.endLoad_lines _ _ _).right (State.install_attentionRight _ _)
  | failed h hop hl =>
    refine (((hans _ _).trans (State.grantIf_lines _ _)).trans
      (State.endFailed_lines _ ?_)).right hr
    rw [State.grantIf_work]
    simpa using hl
  | failedLate h hop hl =>
    refine (((s.expired_lines _).trans (State.grantIf_lines _ _)).trans
      (State.endFailed_lines _ ?_)).right hr
    rw [State.grantIf_work, State.expired, State.landExpired_frame]
    exact hl
  | expires => exact ((s.expired_lines _).trans (State.expire_lines _ _ _ _)).right hr
  | hold hx =>
    exact (s.kept_lines.choose (s.kept_lines.raise _ (s.kept_lines.hold hx (.refl s)))).right hr
  | session hx =>
    exact (s.kept_lines.choose (s.kept_lines.raise _ (s.kept_lines.session hx (.refl s)))).right hr

/-- Settles O58: each command's effect keeps the lines right. -/
theorem stepKeepsAttentionRight : Obligations.StepKeepsAttentionRight := by
  intro s t hr hstep
  exact step_keeps (P := State.AttentionRight) (Q := State.AttentionRight) hstep
    (fun _ h => h) id (fun e h => e.attentionRight h) hr

end Sys2Proof.Machine
end

section
/-! PROOFS. The Notice Unit is settled after every command (R123): a command that changes what it chooses
from ends with its choice. -/

namespace Sys2Proof.Machine

theorem State.chooseAfter_settled (s : State) (b : Bool) : (s.chooseAfter b).NoticeSettled :=
  State.chooseNotice_settled _

theorem State.chooseBeside_settled (s : State) (p : Port) : (s.chooseBeside p).NoticeSettled := by
  obtain h | ⟨v, -, h⟩ := s.chooseBeside_cases p <;> rw [h]
  · exact s.chooseNotice_settled
  · exact v.chooseNotice_settled

theorem State.endLoad_settled (s : State) (ld : Load) (order : EndOrder) :
    (s.endLoad ld order).NoticeSettled := by
  unfold State.endLoad
  dsimp only
  split
  · exact State.chooseNotice_settled _
  · exact State.chooseNotice_settled _
  · exact State.chooseNotice_settled _

theorem State.expire_settled (s : State) (g : Granted) (w : WordAccess) (order : EndOrder) :
    (s.expire g w order).NoticeSettled := by
  unfold State.expire
  repeat' split
  all_goals exact State.chooseNotice_settled _

/-- What the Notice Unit chooses from, and its claim, are as they were. -/
structure State.ChoiceCalm (s t : State) : Prop where
  claim : t.noticeClaim = s.noticeClaim
  map : t.map = s.map
  queue : t.queue = s.queue
  lrep : ∀ q, (t.rings.get q).lrep = (s.rings.get q).lrep

theorem State.ChoiceCalm.trans {s t u : State} (h : s.ChoiceCalm t) (h' : t.ChoiceCalm u) :
    s.ChoiceCalm u :=
  ⟨h'.claim.trans h.claim, h'.map.trans h.map, h'.queue.trans h.queue,
    fun q => (h'.lrep q).trans (h.lrep q)⟩

theorem State.ChoiceCalm.noticeChoice {s t : State} (h : s.ChoiceCalm t) :
    t.noticeChoice = s.noticeChoice := by
  have hloss : ∀ q, t.lossDue q = s.lossDue q := by
    intro q
    unfold State.lossDue State.ringPlace
    rw [h.map, h.lrep]
  unfold State.noticeChoice
  rw [hloss, hloss, h.queue]

/-- The Notice Unit stays settled while what it chooses from stays, and no burst of its own ends. -/
theorem State.ChoiceCalm.settled {s t : State} (h : s.ChoiceCalm t) (hs : s.NoticeSettled)
    (hb : s.burstCarried = true → t.burstCarried = true) : t.NoticeSettled := by
  obtain hc | hc | hc := hs
  · exact .inl (by rw [h.claim, hc])
  · exact .inr (.inl (hb hc))
  · exact .inr (.inr (by rw [h.noticeChoice, hc]))

theorem State.burstCarried_of_granted {s : State} {g : Granted} (hg : s.granted = some g) :
    s.burstCarried = true ↔ ∃ q n, g.op = .entry q n ∨ g.op = .fullRing q n ∨ g.op = .lossReport q n := by
  simp only [State.burstCarried, hg]
  cases g.op <;> simp

/-- An operation that is no notice burst. -/
theorem State.no_burst_of_op {s : State} {g : Granted} (hg : s.granted = some g)
    (hop : ∀ q n, g.op ≠ .entry q n ∧ g.op ≠ .fullRing q n ∧ g.op ≠ .lossReport q n) :
    s.burstCarried = false := by
  rw [Bool.eq_false_iff]
  intro h
  obtain ⟨q, n, h⟩ := (State.burstCarried_of_granted hg).1 h
  obtain ⟨h1, h2, h3⟩ := hop q n
  obtain h | h | h := h
  · exact h1 h
  · exact h2 h
  · exact h3 h

theorem State.answered_choice (s : State) (w : WordAccess) (ans : Answer) :
    s.ChoiceCalm (s.answered w ans) := by
  rw [State.answered, s.answer_frame]
  exact ⟨rfl, rfl, rfl, fun _ => rfl⟩

theorem State.answer_choice (s : State) (w : WordAccess) (ans : Answer) :
    s.ChoiceCalm (s.answer w ans) := by
  rw [s.answer_frame]
  exact ⟨rfl, rfl, rfl, fun _ => rfl⟩

theorem State.issue_choice (s : State) (op : Op) (todo : List WordAccess) (done : Nat)
    (got : List Word) : s.ChoiceCalm (s.issue op todo done got) := ⟨rfl, rfl, rfl, fun _ => rfl⟩

theorem State.issue_burstCarried {s : State} {g : Granted} (t : State) (hg : s.granted = some g)
    (hb : s.burstCarried = true) (todo : List WordAccess) (done : Nat) (got : List Word) :
    (t.issue g.op todo done got).burstCarried = true := by
  have hsame : (t.issue g.op todo done got).burstCarried = s.burstCarried := by
    simp only [State.burstCarried, hg, State.issue]
  exact hsame.trans hb

theorem State.nextCommitAccess_choice (s : State) (p : Port) (ses : Session)
    (rest : List WordAccess) (done : Nat) (got : List Word) :
    s.ChoiceCalm (s.nextCommitAccess p ses rest done got) := by
  cases rest <;> exact s.issue_choice _ _ _ _

theorem State.endReady_choice (s : State) (p : Port) (acc : Access) (w : Word) :
    s.ChoiceCalm (s.endReady p acc w) := ⟨rfl, rfl, rfl, fun _ => rfl⟩

theorem State.healTorn_choice (s : State) (base : WAddr) (w : Nat) :
    s.ChoiceCalm (s.healTorn base w) := ⟨rfl, rfl, rfl, fun _ => rfl⟩

theorem State.freeSession_choice (s : State) (p : Port) (w k : Nat) :
    s.ChoiceCalm (s.freeSession p w k) := ⟨rfl, rfl, rfl, fun _ => rfl⟩

/-- Taking a consumer count does not change what the Notice Unit chooses from (R132). -/
theorem State.takeCount_choice (s : State) (q : Port) (n : Count) :
    s.ChoiceCalm (s.takeCount q n) := by
  refine ⟨rfl, rfl, rfl, fun x => ?_⟩
  change ((s.rings.set q ((s.rings.get q).take (s.ringEntries q) n)).get x).lrep = _
  by_cases hx : x = q
  · rw [hx, Both.get_set_self]
    rfl
  · rw [Both.get_set_ne _ _ hx]

theorem State.toPhase_choice {s : State} {ld : Load} (ph : Phase) (hl : s.part = .loading ld) :
    s.ChoiceCalm (s.toPhase ld ph) :=
  ⟨rfl, (State.toPhase_lines ph hl).map, rfl, fun _ => rfl⟩

theorem State.setLoaderClaim_choice (s : State) (c : Option LoaderClaim) :
    s.ChoiceCalm { s with loaderClaim := c } := ⟨rfl, rfl, rfl, fun _ => rfl⟩

theorem State.claimStatus_choice (s : State) (r : LoadResult) (w q t : BitVec 8) :
    s.ChoiceCalm (s.claimStatus r w q t) := ⟨rfl, rfl, rfl, fun _ => rfl⟩

theorem State.claimInstall_choice (s : State) (cand : RecordMap) :
    s.ChoiceCalm (s.claimInstall cand) := by
  unfold State.claimInstall
  split
  · exact s.setLoaderClaim_choice _
  · split
    · exact s.setLoaderClaim_choice _
    · exact s.claimStatus_choice _ _ _ _

theorem State.claimAfterHeader_choice (s : State) (cand : RecordMap) (q : Port) :
    s.ChoiceCalm (s.claimAfterHeader cand q) := by
  unfold State.claimAfterHeader
  split
  · split
    · exact s.setLoaderClaim_choice _
    · exact s.claimStatus_choice _ _ _ _
  · exact s.claimStatus_choice _ _ _ _

theorem State.applyVerdict_choice {s : State} {ld : Load} (v : Verdict)
    (hl : s.part = .loading ld) : s.ChoiceCalm (s.applyVerdict ld v) := by
  cases v with
  | fails r => exact (State.toPhase_choice .reporting hl).trans (State.claimStatus_choice _ _ _ _ _)
  | passes cand => exact (State.toPhase_choice _ hl).trans (State.claimInstall_choice _ cand)

/-- What the arrivals at the release of RESET keep, from what an arrival and a grant keep. -/
theorem State.arriveBoth_keeps {P : State → Prop}
    (hfree : ∀ {v : State} (n : Nat), P v → P { v with freeCount := n })
    (harr : ∀ {v : State} (p : Port), P v → P (v.arriveAtRelease p))
    (hgrant : ∀ {v : State}, P v → P v.arbitrate) {s : State} (h : P s) : P s.arriveBoth := by
  unfold State.arriveBoth
  split
  · dsimp only
    split
    · exact harr _ (harr _ (hfree _ h))
    · exact harr _ (hgrant (harr _ (hfree _ h)))
    · exact harr _ (hgrant (harr _ (hfree _ h)))
  · exact harr _ (harr _ h)

/-- The arrivals at the release of RESET leave the part BARE with nothing queued. -/
theorem State.arriveBoth_bare {s : State} (hb : s.part = .bare) (hq : s.queue = []) :
    s.arriveBoth.part = .bare ∧ s.arriveBoth.queue = [] := by
  refine State.arriveBoth_keeps (P := fun v => v.part = .bare ∧ v.queue = []) ?_ ?_ ?_ ⟨hb, hq⟩
  · exact fun _ h => h
  · intro v p h
    rw [State.arriveAtRelease_frame p h.1]
    exact h
  · intro v h
    rw [v.arbitrate_work]
    exact h

/-- R123: every command leaves the Notice Unit settled. -/
theorem Effect.noticeSettled {s t : State} {c : Instr} (h : Effect s c t) (hh : s.HeldInReset)
    (hs : s.NoticeSettled) : t.NoticeSettled := by
  have hquiet : ∀ {g : Granted} {t : State}, s.granted = some g →
      (∀ q n, g.op ≠ .entry q n ∧ g.op ≠ .fullRing q n ∧ g.op ≠ .lossReport q n) →
      s.ChoiceCalm t → t.NoticeSettled := by
    intro g t hg hop hc
    refine hc.settled hs fun hb => ?_
    rw [State.no_burst_of_op hg hop] at hb
    cases hb
  cases h with
  | stays => exact hs
  | reset => exact .inr (.inr rfl)
  | release hr =>
    have he := hh.emptied hr
    obtain ⟨hb, hq⟩ := State.arriveBoth_bare (s := s.released _) he.part he.queue
    exact .inr (.inr (State.noticeChoice_of_bare (by simp only [State.map, hb]) hq))
  | strobe | tick | stray | captureLimit =>
    exact State.ChoiceCalm.settled (s := s) ⟨rfl, rfl, rfl, fun _ => rfl⟩ hs id
  | ackReleased =>
    refine State.ChoiceCalm.settled (s := s) ⟨rfl, rfl, rfl, fun _ => rfl⟩ hs fun hb => ?_
    cases hg : s.granted with
    | none => simp only [State.burstCarried, hg, reduceCtorEq] at hb
    | some g =>
      rw [State.burstCarried_of_granted hg] at hb
      exact (State.burstCarried_of_granted (g := { g with presented := true }) rfl).2 hb
  | access => exact State.chooseBeside_settled _ _
  | grant => exact State.chooseNotice_settled _
  | word h =>
    exact State.ChoiceCalm.settled ((s.answer_choice _ _).trans (State.issue_choice _ _ _ _ _)) hs
      fun hb => State.issue_burstCarried _ h.1 hb _ _ _
  | commitWord _ h hop =>
    exact hquiet h.1 (by simp [hop])
      ((s.answer_choice _ _).trans (State.nextCommitAccess_choice _ _ _ _ _ _))
  | single h hop =>
    exact hquiet h.1 (by simp [hop]) ((s.answered_choice _ _).trans (State.endReady_choice _ _ _ _))
  | count h hop =>
    exact hquiet h.1 (by simp [hop]) (((s.answered_choice _ _).trans
      (State.takeCount_choice _ _ _)).trans (State.endReady_choice _ _ _ _))
  | request h hop =>
    split
    · exact hquiet h.1 (by simp [hop])
        ((s.answered_choice _ _).trans (State.endReady_choice _ _ _ _))
    · exact State.chooseNotice_settled _
  | committed h hop =>
    exact hquiet h.1 (by simp [hop]) ((((s.answered_choice _ _).trans
      (State.healTorn_choice _ _ _)).trans (State.freeSession_choice _ _ _ _)).trans
        (State.endReady_choice _ _ _ _))
  | inProgress h hop hl =>
    exact hquiet h.1 (by simp [hop])
      ((s.answered_choice _ _).trans (State.toPhase_choice _ (by simpa using hl)))
  | drained hl =>
    exact ((State.toPhase_choice _ hl).trans (State.setLoaderClaim_choice _ _)).settled hs id
  | imageRead h hop hl =>
    exact hquiet h.1 (by simp [hop])
      ((s.answered_choice _ _).trans (State.applyVerdict_choice _ (by simpa using hl)))
  | header h hop =>
    exact hquiet h.1 (by simp [hop])
      ((s.answered_choice _ _).trans (State.claimAfterHeader_choice _ _ _))
  | done | failed | failedLate => exact State.endLoad_settled _ _ _
  | expires => exact State.expire_settled _ _ _ _
  | stale | captured => exact State.chooseAfter_settled _ _
  | stampRead | entryBurst | fullRingBurst | lossReport | hold | session =>
    exact State.chooseNotice_settled _

/-- Settles O57: each command's effect leaves the Notice Unit settled. -/
theorem stepKeepsTheNoticeUnitSettled : Obligations.StepKeepsTheNoticeUnitSettled := by
  intro s t hs hh hstep
  exact step_keeps (P := fun v => v.NoticeSettled ∧ v.HeldInReset)
    (Q := fun v => v.NoticeSettled ∧ v.HeldInReset) hstep
    (fun rest h => ⟨h.1, h.2.pending rest⟩) id
    (fun e h => ⟨e.noticeSettled h.2 h.1, e.held h.2⟩) ⟨hs, hh⟩

end Sys2Proof.Machine
end

section
/-! PROOFS. The bounded stores (R35, R109, R119): an engine's tables by the records they hold, and every
command keeps the tables, the queue and the Torn Record List within their bounds. -/

namespace Sys2Proof.Machine

/-! ## Tables by their records -/

/-- The record of a session. -/
def Session.key (ses : Session) : Nat × Nat := (ses.window, ses.record)

/-- The record of a capture. -/
def Capture.key (c : Capture) : Nat × Nat := (c.window, c.record)

theorem Session.of_iff_key (ses : Session) (w r : Nat) : ses.of w r = true ↔ ses.key = (w, r) := by
  rw [ses.of_iff, Session.key, Prod.mk.injEq]

theorem Capture.of_iff_key (c : Capture) (w r : Nat) : c.of w r = true ↔ c.key = (w, r) := by
  rw [c.of_iff, Capture.key, Prod.mk.injEq]

/-- R35 of the records in a port's tables. -/
def KeysHold (ss cs : List (Nat × Nat)) : Prop :=
  ss.length ≤ 4 ∧ cs.length ≤ 4 ∧ ss.Nodup ∧ cs.Nodup ∧ ∀ k ∈ ss, k ∉ cs

theorem Engine.tablesHold_iff (e : Engine) :
    e.TablesHold ↔ KeysHold (e.sessions.map Session.key) (e.captures.map Capture.key) := by
  unfold Engine.TablesHold KeysHold
  simp only [List.length_map]
  refine and_congr_right' (and_congr_right' (and_congr_right' (and_congr_right' ?_)))
  constructor
  · intro h k hs hc
    obtain ⟨ses, hses, rfl⟩ := List.mem_map.mp hs
    obtain ⟨c, hcap, heq⟩ := List.mem_map.mp hc
    exact h ses hses c hcap heq.symm
  · intro h ses hses c hc heq
    exact h _ (List.mem_map_of_mem hses) (List.mem_map.mpr ⟨c, hc, heq.symm⟩)

/-- Tables that hold no more records than before are within their bounds. -/
theorem KeysHold.sublist {ss cs ss' cs' : List (Nat × Nat)} (h : KeysHold ss cs)
    (hs : ss'.Sublist ss) (hc : cs'.Sublist cs) : KeysHold ss' cs' := by
  obtain ⟨h1, h2, h3, h4, h5⟩ := h
  exact ⟨hs.length_le.trans h1, hc.length_le.trans h2, h3.sublist hs, h4.sublist hc,
    fun k hk hk' => h5 k (hs.subset hk) (hc.subset hk')⟩

/-- A session table with a free slot takes a record that neither table holds. -/
theorem KeysHold.add_session {ss cs : List (Nat × Nat)} {k : Nat × Nat} (h : KeysHold ss cs)
    (hlen : ss.length < 4) (hs : k ∉ ss) (hc : k ∉ cs) : KeysHold (ss ++ [k]) cs := by
  obtain ⟨-, h2, h3, h4, h5⟩ := h
  refine ⟨by simpa using hlen, h2, ?_, h4, ?_⟩
  · refine List.nodup_append.mpr ⟨h3, List.nodup_singleton k, ?_⟩
    rintro a ha b hb rfl
    exact hs (List.mem_singleton.mp hb ▸ ha)
  · intro x hx
    obtain hx | hx := List.mem_append.mp hx
    · exact h5 x hx
    · exact List.mem_singleton.mp hx ▸ hc

/-- A capture table with a free slot takes a record that neither table holds. -/
theorem KeysHold.add_capture {ss cs : List (Nat × Nat)} {k : Nat × Nat} (h : KeysHold ss cs)
    (hlen : cs.length < 4) (hs : k ∉ ss) (hc : k ∉ cs) : KeysHold ss (cs ++ [k]) := by
  have hswap : ∀ {xs ys : List (Nat × Nat)}, KeysHold xs ys → KeysHold ys xs :=
    fun ⟨h1, h2, h3, h4, h5⟩ => ⟨h2, h1, h4, h3, fun x hy hx => h5 x hx hy⟩
  exact hswap ((hswap h).add_session hlen hc hs)

theorem Engine.TablesHold.sublist {e : Engine} (h : e.TablesHold) (es : EState)
    {ss : List Session} {cs : List Capture}
    (hs : (ss.map Session.key).Sublist (e.sessions.map Session.key))
    (hc : (cs.map Capture.key).Sublist (e.captures.map Capture.key)) :
    ({ estate := es, sessions := ss, captures := cs } : Engine).TablesHold :=
  (Engine.tablesHold_iff _).mpr (((Engine.tablesHold_iff e).mp h).sublist hs hc)

/-- A session put in place of that of its record leaves the table's records. -/
theorem putSession_keys (ses : Session) (t : List Session) :
    (putSession ses t).map Session.key = t.map Session.key := by
  rw [putSession, List.map_map]
  refine List.map_congr_left fun x _ => ?_
  simp only [Function.comp]
  split
  next h => exact ((x.of_iff_key _ _).mp h).symm
  next => rfl

theorem putCapture_keys (c : Capture) (t : List Capture) :
    (putCapture c t).map Capture.key = t.map Capture.key := by
  rw [putCapture, List.map_map]
  refine List.map_congr_left fun x _ => ?_
  simp only [Function.comp]
  split
  next h => exact ((x.of_iff_key _ _).mp h).symm
  next => rfl

theorem sessionsBut_sublist (w r : Nat) (t : List Session) : (sessionsBut w r t).Sublist t :=
  List.filter_sublist

theorem capturesBut_sublist (w r : Nat) (t : List Capture) : (capturesBut w r t).Sublist t :=
  List.filter_sublist

theorem capturesBut_key {w r : Nat} {t : List Capture} :
    (w, r) ∉ (capturesBut w r t).map Capture.key := by
  intro h
  obtain ⟨c, hc, hkey⟩ := List.mem_map.mp h
  rw [← dropCapture_eq] at hc
  have := (List.mem_filter.mp hc).2
  rw [(c.of_iff_key w r).mpr hkey] at this
  cases this

theorem roomForSession_sublist (t : List Session) : (roomForSession t).Sublist t := by
  unfold roomForSession
  split
  · exact .refl _
  · exact List.tail_sublist t

theorem roomForSession_length {t : List Session} (h : t.length ≤ 4) :
    (roomForSession t).length < 4 := by
  unfold roomForSession
  split
  next hlt => exact hlt
  next => rw [List.length_tail]; omega

theorem roomForCapture_sublist (w r : Nat) (t : List Capture) :
    (roomForCapture w r t).Sublist (capturesBut w r t) := by
  unfold roomForCapture
  dsimp only
  split
  · exact .refl _
  · exact List.tail_sublist _

theorem roomForCapture_length {w r : Nat} {t : List Capture} (h : t.length ≤ 4) :
    (roomForCapture w r t).length < 4 := by
  have hkept : (capturesBut w r t).length ≤ 4 := (capturesBut_sublist w r t).length_le.trans h
  unfold roomForCapture
  dsimp only
  split
  next hlt => exact hlt
  next =>
    rw [List.length_tail]
    unfold capturesBut at hkept
    omega

/-- A session opened: the record's capture is gone, and a slot free (R39, R40). -/
theorem Engine.TablesHold.opens {e : Engine} (h : e.TablesHold) {w r : Nat}
    (hnone : e.sessionOf w r = none) (es : EState) {ses : Session} (hkey : ses.key = (w, r)) :
    ({ estate := es, sessions := roomForSession e.sessions ++ [ses],
       captures := capturesBut w r e.captures } : Engine).TablesHold := by
  rw [Engine.tablesHold_iff]
  have hsub := (roomForSession_sublist e.sessions).map Session.key
  have hk := ((Engine.tablesHold_iff e).mp h).sublist hsub
    ((capturesBut_sublist w r e.captures).map Capture.key)
  rw [List.map_append, List.map_singleton, hkey]
  refine hk.add_session ?_ ?_ capturesBut_key
  · rw [List.length_map]
    exact roomForSession_length h.1
  · intro hmem
    obtain ⟨x, hx, hxk⟩ := List.mem_map.mp (hsub.subset hmem)
    exact Engine.sessionOf_none hnone x hx ((x.of_iff w r).mp ((x.of_iff_key w r).mpr hxk))

/-- A capture taken: the old one of the record is gone, and a slot free (R80, R81). -/
theorem Engine.TablesHold.takes {e : Engine} (h : e.TablesHold) {w r : Nat}
    (hnone : e.sessionOf w r = none) (es : EState) {c : Capture} (hkey : c.key = (w, r)) :
    ({ estate := es, sessions := e.sessions,
       captures := roomForCapture w r e.captures ++ [c] } : Engine).TablesHold := by
  rw [Engine.tablesHold_iff]
  have hsub := (roomForCapture_sublist w r e.captures).map Capture.key
  have hk := ((Engine.tablesHold_iff e).mp h).sublist (.refl _)
    (hsub.trans ((capturesBut_sublist w r e.captures).map Capture.key))
  rw [List.map_append, List.map_singleton, hkey]
  refine hk.add_capture ?_ ?_ fun hmem => capturesBut_key (hsub.subset hmem)
  · rw [List.length_map]
    exact roomForCapture_length h.2.1
  · intro hmem
    obtain ⟨x, hx, hxk⟩ := List.mem_map.mp hmem
    exact Engine.sessionOf_none hnone x hx ((x.of_iff w r).mp ((x.of_iff_key w r).mpr hxk))

/-! ## The stores of the part -/

/-- Stores of the same tables, with the queue no longer and no more torn records. -/
theorem State.StoresHold.shrinks {s t : State} (h : s.StoresHold)
    (htables : ∀ p, (s.engines.get p).TablesHold → (t.engines.get p).TablesHold)
    (hq : t.queue.length ≤ s.queue.length) (htorn : t.torn.Sublist s.torn) : t.StoresHold := by
  obtain ⟨h1, h2, h3, h4⟩ := h
  exact ⟨fun p => htables p (h1 p), hq.trans h2, htorn.length_le.trans h3, h4.sublist htorn⟩

/-- The stores are the same. -/
theorem State.StoresHold.same {s t : State} (h : s.StoresHold) (he : t.engines = s.engines)
    (hq : t.queue = s.queue) (htorn : t.torn = s.torn) : t.StoresHold :=
  h.shrinks (fun _ hp => he ▸ hp) (hq ▸ le_refl _) (htorn ▸ .refl _)

theorem State.StoresHold.withPort {s : State} (h : s.StoresHold) (p : Port) {e : Engine} (x : Pins)
    (he : (s.engines.get p).TablesHold → e.TablesHold) : (s.withPort p e x).StoresHold := by
  refine h.shrinks (fun q hq => ?_) (le_refl _) (.refl _)
  rw [State.withPort_engines]
  by_cases hpq : q = p
  · subst hpq
    rw [Both.get_set_self]
    exact he hq
  · rwa [Both.get_set_ne _ _ hpq]

theorem State.StoresHold.setEState {s : State} (h : s.StoresHold) (p : Port) (e : EState) :
    (s.setEState p e).StoresHold := by
  rw [State.setEState_eq]
  exact h.withPort p _ id

theorem State.StoresHold.raise {s : State} (h : s.StoresHold) (r : Report) :
    (s.raise r).StoresHold := by
  obtain he | ⟨n, d, b, hroom, he⟩ | ⟨d, he⟩ | ⟨d, he⟩ := s.raise_cases r <;> rw [he]
  · exact h
  · obtain ⟨h1, -, h3, h4⟩ := h
    refine ⟨h1, ?_, h3, h4⟩
    rw [State.enqueue, List.length_append]
    exact hroom
  · exact h
  · exact h

/-- A port's grant makes its claim GRANTED, and changes no other engine. -/
theorem State.startPort_engines {s : State} {p : Port} {acc : Access} {t : Option Taken} {job : Job}
    {c : ClaimState} (he : (s.engines.get p).estate = .inMemory acc t job c) :
    (s.startPort p).engines = (s.setEState p (.inMemory acc t job .granted)).engines := by
  simp only [State.startPort, he]
  cases job with
  | commit =>
    dsimp only
    unfold State.startCommit
    dsimp only
    split <;> rfl
  | single | stampRead | capture => rfl

theorem State.startLoader_engines (s : State) (c : LoaderClaim) :
    (s.startLoader c).engines = s.engines := by
  unfold State.startLoader
  repeat' split
  all_goals rfl

theorem State.startNotice_engines (s : State) (c : NoticeClaim) :
    (s.startNotice c).engines = s.engines := by
  unfold State.startNotice
  split
  · split <;> rfl
  · split
    · dsimp only
      split <;> rfl
    · rfl

/-- A grant makes one engine's waiting claim GRANTED, or changes no engine. -/
theorem State.Grants.engines {s t : State} (h : s.Grants t) :
    t.engines = s.engines
      ∨ ∃ p acc tk job, (s.engines.get p).estate = .inMemory acc tk job .waiting
          ∧ t.engines = (s.setEState p (.inMemory acc tk job .granted)).engines := by
  cases h with
  | nothing => exact .inl rfl
  | loader => exact .inl (State.startLoader_engines _ _)
  | port x _ he =>
    exact .inr ⟨_, _, _, _, he, State.startPort_engines (s := { s with pointer := x }) he⟩
  | notice => exact .inl (State.startNotice_engines _ _)

theorem State.ArbiterWork.stores {s t : State} (h : s.ArbiterWork t) :
    t.queue = s.queue ∧ t.torn = s.torn := by
  rw [h]
  exact ⟨rfl, rfl⟩

theorem State.StoresHold.grants {s t : State} (h : s.StoresHold) (hg : s.Grants t) :
    t.StoresHold := by
  obtain ⟨hq, ht⟩ := hg.work.stores
  obtain he | ⟨p, acc, tk, job, -, he⟩ := hg.engines
  · exact h.same he hq ht
  · exact (h.setEState p _).same he hq ht

theorem State.StoresHold.endAccess {s : State} (h : s.StoresHold) (p : Port) (o : PortOut) :
    (s.endAccess p o).StoresHold := by
  rw [State.endAccess_eq]
  exact h.withPort p _ id

theorem State.StoresHold.endReady {s : State} (h : s.StoresHold) (p : Port) (acc : Access)
    (w : Word) : (s.endReady p acc w).StoresHold := h.endAccess p _

theorem State.StoresHold.endFault {s : State} (h : s.StoresHold) (p : Port) (acc : Access) :
    (s.endFault p acc).StoresHold := h.endAccess p _

theorem State.StoresHold.freeSession {s : State} (h : s.StoresHold) (p : Port) (w r : Nat) :
    (s.freeSession p w r).StoresHold := by
  rw [State.freeSession_eq]
  exact h.withPort p _ fun he => he.sublist _ ((sessionsBut_sublist w r _).map _) (.refl _)

theorem State.StoresHold.freeCapture {s : State} (h : s.StoresHold) (p : Port) (w r : Nat) :
    (s.freeCapture p w r).StoresHold := by
  rw [State.freeCapture_eq]
  exact h.withPort p _ fun he => he.sublist _ (.refl _) ((capturesBut_sublist w r _).map _)

theorem State.StoresHold.setRing {s : State} (h : s.StoresHold) (q : Port) (r : Ring) :
    (s.setRing q r).StoresHold := h

theorem State.StoresHold.evaluateAttention {s : State} (h : s.StoresHold) (q : Port) :
    (s.evaluateAttention q).StoresHold := h

theorem State.StoresHold.takeCount {s : State} (h : s.StoresHold) (q : Port) (n : Count) :
    (s.takeCount q n).StoresHold := h

theorem State.StoresHold.unwatch {s : State} (h : s.StoresHold) (job : Job) :
    (s.unwatch job).StoresHold := by
  unfold State.unwatch
  split <;> exact h

theorem State.StoresHold.stageWrite {s : State} (h : s.StoresHold) (p : Port) (acc : Access)
    (t : Taken) (ses : Session) (o : Nat) : (s.stageWrite p acc t ses o).StoresHold := by
  have hput : ∀ x : Session, ((putSession x (s.engines.get p).sessions).map Session.key).Sublist
      ((s.engines.get p).sessions.map Session.key) :=
    fun x => by rw [putSession_keys]
  rw [State.stageWrite_eq]
  split
  · exact h.withPort p _ fun he => he.sublist _ (hput _) (.refl _)
  · exact h.withPort p _ fun he => he.sublist _ (hput _) (.refl _)

theorem State.StoresHold.openSession {s : State} (h : s.StoresHold) {p : Port} {w r : Nat}
    (hnone : (s.engines.get p).sessionOf w r = none) (acc : Access) (t : Taken) (o : Nat)
    (b : WAddr) : (s.openSession p acc t w r o b).1.StoresHold := by
  cases hpol : (s.spec w).policy with
  | guarded =>
    rw [State.openSession_guarded _ _ _ _ _ _ _ hpol]
    exact h.withPort p _ fun he => he.opens hnone _ rfl
  | last =>
    rw [State.openSession_last _ _ _ _ _ _ hpol hnone]
    dsimp only
    split
    · exact h.withPort p _ fun he => he.opens hnone _ rfl
    · exact h.withPort p _ fun he => he.opens hnone _ rfl

theorem State.StoresHold.serve {s : State} (h : s.StoresHold) (p : Port) (acc : Access) (t : Taken)
    (c : Capture) (l : Live) (o : Nat) : (s.serve p acc t c l o).StoresHold := by
  rw [State.serve_eq]
  refine h.withPort p _ fun he => he.sublist _ (.refl _) ?_
  split
  · exact (capturesBut_sublist _ _ _).map _
  · rw [putCapture_keys]

/-- Whatever its class, an access that is taken keeps the tables within their bounds. -/
theorem State.Takes.storesHold {s : State} {p : Port} {acc : Access} {x : State × List Report}
    (hx : s.Takes p acc x) (h : s.StoresHold) : x.1.StoresHold := by
  cases hx with
  | ends out => exact h.endAccess p out
  | holds | single => exact h.setEState p _
  | watched => exact (h.setRing _ _).setEState p _
  | staged => exact h.stageWrite _ _ _ _ _
  | opens _ _ hses => exact h.openSession hses _ _ _ _
  | serves => exact h.serve _ _ _ _ _ _
  | takes _ _ hses =>
    rw [State.takeCapture_eq]
    exact h.withPort p _ fun he => he.takes hses _ rfl

theorem State.StoresHold.dropJob {s : State} (h : s.StoresHold) (p : Port) (t : Option Taken)
    (job : Job) : (s.dropJob p t job).StoresHold := by
  cases job with
  | single => exact h.unwatch _
  | stampRead | commit => exact h.freeSession _ _ _
  | capture => exact h.freeCapture _ _ _

/-- The shared operations keep the stores within their bounds. -/
theorem kept_stores : Kept State.StoresHold where
  free _ h := h
  raise r h := h.raise r
  choose h := by
    rw [State.chooseNotice_frame]
    exact h
  grants hg h := h.grants hg
  pins _ _ h := h
  drop _ h := h.setEState _ _
  taking acc _ h := (State.taking_takes _ _ acc).storesHold h
  hold hx h := by
    unfold State.holdExpiry at hx
    split at hx
    · split at hx <;> cases hx
      exact h.endFault _ _
    · split at hx <;> cases hx
      exact (h.dropJob _ _ _).endFault _ _
    · cases hx
  session hx h := by
    unfold State.sessionExpiry at hx
    repeat' split at hx
    all_goals cases hx
    exact h.freeSession _ _ _

/-! ## What the commands do beside the shared operations -/

theorem State.StoresHold.answer {s : State} (h : s.StoresHold) (w : WordAccess) (ans : Answer) :
    (s.answer w ans).StoresHold := by
  rw [State.answer_frame]
  exact h

theorem State.StoresHold.answered {s : State} (h : s.StoresHold) (w : WordAccess) (ans : Answer) :
    (s.answered w ans).StoresHold := h.answer w ans

theorem State.StoresHold.expired {s : State} (h : s.StoresHold) (w : WordAccess) :
    (s.expired w).StoresHold := by
  rw [State.expired, State.landExpired_frame]
  exact h

theorem State.StoresHold.withdraw {s : State} (h : s.StoresHold) (p : Port) :
    (s.withdraw p).StoresHold := by
  unfold State.withdraw
  split
  · exact (h.unwatch _).setEState _ _
  · exact h

/-- A load frees sessions and captures (R57, R94). -/
theorem State.StoresHold.emptyForLoad {s : State} (h : s.StoresHold) (p : Port) :
    (s.emptyForLoad p).StoresHold := by
  have hsub : ∀ {v : State} (ss : List Session) (cs : List Capture), v.StoresHold →
      ss.Sublist (v.engines.get p).sessions → cs.Sublist (v.engines.get p).captures →
      ((v.setSessions p ss).setCaptures p cs).StoresHold := by
    intro v ss cs hv hss hcs
    rw [State.setCaptures_eq, State.setSessions_eq, State.withPort_withPort]
    refine hv.withPort p _ fun he => ?_
    rw [State.withPort_engines, Both.get_set_self]
    exact he.sublist _ (hss.map _) (hcs.map _)
  unfold State.emptyForLoad
  dsimp only
  split
  · exact hsub _ _ h List.filter_sublist List.filter_sublist
  · exact hsub _ _ (h.withdraw p) (List.nil_sublist _) (List.nil_sublist _)

theorem State.StoresHold.clearIfLoading {s : State} (h : s.StoresHold) (p : Port) :
    (s.clearIfLoading p).StoresHold := by
  unfold State.clearIfLoading
  split
  · exact Kept.raiseAll kept_stores _ (h.emptyForLoad p)
  · exact h

theorem handleHead_length (q : Port) (l : List QueueEntry) : (handleHead q l).length ≤ l.length := by
  cases l with
  | nil => exact le_refl _
  | cons e es =>
    unfold handleHead
    dsimp only
    split
    · exact Nat.le_succ _
    · exact le_refl _

theorem State.StoresHold.handled {s : State} (h : s.StoresHold) (q : Port) :
    (s.handled q).StoresHold :=
  h.shrinks (fun _ => id) (handleHead_length q s.queue) (.refl _)

theorem RecordMap.releaseEntries_length (m : RecordMap) (l : List QueueEntry) :
    (m.releaseEntries l).length ≤ l.length := by
  induction l with
  | nil => exact le_refl _
  | cons e es ih =>
    unfold RecordMap.releaseEntries
    split
    · dsimp only
      split
      · exact ih.trans (Nat.le_succ _)
      · exact Nat.succ_le_succ ih
    · exact Nat.succ_le_succ ih

theorem State.StoresHold.releaseDeferred {s : State} (h : s.StoresHold) :
    s.releaseDeferred.StoresHold := by
  unfold State.releaseDeferred
  split
  · exact h.shrinks (fun _ => id) (List.length_filter_le _ _) (.refl _)
  next m _ => exact h.shrinks (fun _ => id) (m.releaseEntries_length _) (.refl _)

theorem State.StoresHold.endLoad {s : State} (h : s.StoresHold) (ld : Load) (order : EndOrder) :
    (s.endLoad ld order).StoresHold := Kept.endLoad kept_stores ld order h.releaseDeferred

theorem State.StoresHold.endFailed {s : State} (h : s.StoresHold) (ld : Load) (order : EndOrder) :
    (s.endFailed ld order).StoresHold :=
  State.StoresHold.endLoad (s := { s with part := ld.fromState }) h ld order

theorem State.StoresHold.install {s : State} (h : s.StoresHold) (cand : RecordMap) :
    (s.install cand).StoresHold :=
  h.shrinks (fun _ => id) (le_refl _) (List.nil_sublist _)

theorem State.StoresHold.healTorn {s : State} (h : s.StoresHold) (base : WAddr) (w : Nat) :
    (s.healTorn base w).StoresHold :=
  h.shrinks (fun _ => id) (le_refl _) List.filter_sublist

/-- A torn record is entered once, in a list with room (R109, R110). -/
theorem State.StoresHold.enterTorn {s : State} (h : s.StoresHold) (base : WAddr) (w : Nat) :
    (s.enterTorn base w).StoresHold := by
  unfold State.enterTorn
  dsimp only
  split
  · exact h
  next hnew =>
    split
    next hroom =>
      obtain ⟨h1, h2, h3, h4⟩ := h
      refine ⟨h1, h2, ?_, ?_⟩
      · rw [List.length_append]
        exact hroom
      · refine List.nodup_append.mpr ⟨h4, List.nodup_singleton _, ?_⟩
        rintro a ha b hb rfl
        exact hnew (List.mem_singleton.mp hb ▸ ha)
    · split
      · exact h
      · exact State.StoresHold.raise (s := { s with suspect := s.suspect.set w true }) h _

theorem State.StoresHold.fillCapture {s : State} (h : s.StoresHold) (p : Port) (acc : Access)
    (t : Taken) (c : Capture) (words : List Word) : (s.fillCapture p acc t c words).StoresHold := by
  unfold State.fillCapture
  dsimp only
  refine State.StoresHold.serve ?_ _ _ _ _ _ _
  split
  · exact h.raise _
  · exact h

theorem State.StoresHold.beginLoad {s : State} (h : s.StoresHold) (p : Port) (n : Nat) (gf : Bool)
    (entry : EntryOrder) : (s.beginLoad p n gf entry).StoresHold := by
  have hevents : ((s.takeEvents entry.events).1.grantIf gf).StoresHold :=
    Kept.grantIf kept_stores gf (Kept.takeEvents kept_stores entry.events h)
  have henter : (((s.takeEvents entry.events).1.grantIf gf).enterLoading p n).StoresHold := hevents
  exact Kept.raiseAll kept_stores _ ((henter.emptyForLoad .a).emptyForLoad .b)

theorem State.StoresHold.endOp {s : State} (h : s.StoresHold) : s.endOp.StoresHold := h

theorem State.StoresHold.endStale {s : State} (h : s.StoresHold) (p : Port) (acc : Access)
    (ses : Session) (found : Count) (gf : Bool) : (s.endStale p acc ses found gf).StoresHold :=
  Kept.chooseAfter kept_stores _ (((h.endOp.freeSession _ _ _).endFault _ _).raise _)

theorem State.StoresHold.failLoad {s : State} (h : s.StoresHold) (ld : Load) (r : LoadResult) :
    (s.failLoad ld r).StoresHold := h

theorem State.StoresHold.applyVerdict {s : State} (h : s.StoresHold) (ld : Load) (v : Verdict) :
    (s.applyVerdict ld v).StoresHold := by
  cases v with
  | fails r => exact h.failLoad ld r
  | passes cand =>
    unfold State.applyVerdict State.claimInstall
    dsimp only
    repeat' split
    all_goals exact h

theorem State.StoresHold.claimAfterHeader {s : State} (h : s.StoresHold) (cand : RecordMap)
    (q : Port) : (s.claimAfterHeader cand q).StoresHold := by
  unfold State.claimAfterHeader
  repeat' split
  all_goals exact h

theorem State.StoresHold.expireSingle {s : State} (h : s.StoresHold) (p : Port) :
    (s.expireSingle p).StoresHold := by
  unfold State.expireSingle
  split
  · dsimp only
    split
    · exact (h.unwatch _).endFault _ _
    · exact ((h.unwatch _).endFault _ _).raise _
  · exact h

theorem State.StoresHold.expireStampRead {s : State} (h : s.StoresHold) (p : Port) :
    (s.expireStampRead p).StoresHold := by
  unfold State.expireStampRead
  split
  · exact Kept.free kept_stores _ (((h.freeSession _ _ _).endFault _ _).raise _)
  · exact h

theorem State.StoresHold.expireCapture {s : State} (h : s.StoresHold) (p : Port) (g : Granted) :
    (s.expireCapture p g).StoresHold := by
  unfold State.expireCapture
  split
  · exact ((h.freeCapture _ _ _).endFault _ _).raise _
  · exact h

theorem State.StoresHold.expireReading {s : State} (h : s.StoresHold) (p : Port) (w : WordAccess) :
    (s.expireReading p w).StoresHold := by
  unfold State.expireReading
  split
  · exact ((h.freeSession _ _ _).endFault _ _).raise _
  · exact h

theorem State.StoresHold.expireWriting {s : State} (h : s.StoresHold) (p : Port) (g : Granted) :
    (s.expireWriting p g).StoresHold := by
  unfold State.expireWriting
  split
  · exact (((h.enterTorn _ _).freeSession _ _ _).endFault _ _).raise _
  · exact h

theorem State.StoresHold.expireNotice {s : State} (h : s.StoresHold) (p : Port)
    (entry handles : Bool) : (s.expireNotice p entry handles).StoresHold := by
  unfold State.expireNotice
  dsimp only
  split
  · exact (h.setRing _ _).handled _
  · exact h.setRing _ _

theorem State.StoresHold.expireLoader {s : State} (h : s.StoresHold) (order : EndOrder) :
    (s.expireLoader order).StoresHold := by
  have hgrant := Kept.grantIf kept_stores order.grantAtEnd h
  unfold State.expireLoader
  dsimp only
  repeat' split
  · exact hgrant.endFailed _ _
  · exact hgrant.failLoad _ _
  · exact hgrant.failLoad _ _
  · exact h

theorem State.StoresHold.expire {s : State} (h : s.StoresHold) (g : Granted) (w : WordAccess)
    (order : EndOrder) : (s.expire g w order).StoresHold := by
  unfold State.expire
  split
  · exact Kept.chooseAfter kept_stores _ (h.expireSingle _)
  · exact Kept.chooseAfter kept_stores _ (h.expireStampRead _)
  · exact Kept.chooseAfter kept_stores _ (h.expireCapture _ _)
  · exact Kept.chooseAfter kept_stores _ (h.expireReading _ _)
  · exact Kept.chooseAfter kept_stores _ (h.expireWriting _ _)
  · exact Kept.chooseAfter kept_stores _ (h.expireNotice _ _ _)
  · exact Kept.chooseAfter kept_stores _ (h.expireNotice _ _ _)
  · exact Kept.chooseAfter kept_stores _ (h.expireNotice _ _ _)
  · exact Kept.choose kept_stores (h.expireLoader _)
  · exact Kept.choose kept_stores (h.expireLoader _)
  · exact Kept.choose kept_stores (h.expireLoader _)

theorem State.afterReset_storesHold (s : State) : s.afterReset.StoresHold := by
  refine ⟨fun p => ?_, Nat.zero_le _, Nat.zero_le _, List.nodup_nil⟩
  have he : s.afterReset.engines.get p = Engine.empty := Both.get_same _ _
  rw [he, Engine.tablesHold_iff]
  exact ⟨Nat.zero_le _, Nat.zero_le _, List.nodup_nil, List.nodup_nil, fun _ => nofun⟩

theorem State.StoresHold.arriveBoth {s : State} (h : s.StoresHold) : s.arriveBoth.StoresHold := by
  refine State.arriveBoth_keeps (P := State.StoresHold) (fun _ h => h) (fun {v} p hv => ?_)
    (Kept.arbitrate kept_stores) h
  unfold State.arriveAtRelease
  split
  · exact hv
  · exact Kept.raiseAll kept_stores _ ((State.taking_takes _ _ _).storesHold hv)

/-- R35, R109, R119: every command keeps the stores within their bounds. -/
theorem Effect.storesHold {s t : State} {c : Instr} (he : Effect s c t) (h : s.StoresHold) :
    t.StoresHold := by
  cases he with
  | stays | strobe | tick | stray | ackReleased | drained => exact h
  | reset => exact s.afterReset_storesHold
  | release => exact State.StoresHold.arriveBoth (s := s.released _) h
  | access => exact Kept.present kept_stores _ _ h
  | grant => exact Kept.choose kept_stores (Kept.arbitrate kept_stores h)
  | word => exact h.answer _ _
  | @commitWord _ _ _ _ rest => cases rest <;> exact h.answer _ _
  | single => exact (h.answered _ _).endReady _ _ _
  | count => exact ((h.answered _ _).takeCount _ _).endReady _ _ _
  | request =>
    split
    · exact (h.answered _ _).endReady _ _ _
    · exact Kept.choose kept_stores
        (State.StoresHold.beginLoad
          (Kept.grantIf kept_stores _ ((h.answered _ _).endReady _ _ _)) _ _ _ _)
  | stampRead =>
    exact Kept.choose kept_stores (((h.answered _ _).stageWrite _ _ _ _ _).clearIfLoading _)
  | stale => exact (h.answer _ _).endStale _ _ _ _ _
  | committed => exact (((h.answered _ _).healTorn _ _).freeSession _ _ _).endReady _ _ _
  | captured =>
    exact Kept.chooseAfter kept_stores _ (((h.answered _ _).fillCapture _ _ _ _ _).clearIfLoading _)
  | entryBurst =>
    exact Kept.choose kept_stores ((((h.answered _ _).setRing _ _).handled _).evaluateAttention _)
  | fullRingBurst =>
    exact Kept.choose kept_stores (((h.answered _ _).setRing _ _).handled _)
  | lossReport => exact Kept.choose kept_stores ((h.answered _ _).setRing _ _)
  | inProgress => exact h.answered _ _
  | imageRead => exact (h.answered _ _).applyVerdict _ _
  | header => exact (h.answered _ _).claimAfterHeader _ _
  | done => exact ((h.answered _ _).install _).endLoad _ _
  | failed => exact (Kept.grantIf kept_stores _ (h.answered _ _)).endFailed _ _
  | failedLate => exact (Kept.grantIf kept_stores _ (h.expired _)).endFailed _ _
  | expires => exact (h.expired _).expire _ _ _
  | hold hx => exact Kept.choose kept_stores ((Kept.hold kept_stores hx h).raise _)
  | session hx => exact Kept.choose kept_stores ((Kept.session kept_stores hx h).raise _)
  | captureLimit => exact h.freeCapture _ _ _

/-- Settles O54: each command's effect keeps the bounds of the stores. -/
theorem stepKeepsStoresBounded : Obligations.StepKeepsStoresBounded := by
  intro s t hs hstep
  exact step_keeps (P := State.StoresHold) (Q := State.StoresHold) hstep (fun _ h => h) id
    (fun e h => e.storesHold h) hs

end Sys2Proof.Machine
end

section
/-! PROOFS. The entries of the tables (R35, R37, R76, R78): a session that is not OPEN and a capture that
is FILLING belong to the access in flight, and without a map the tables are empty. -/

namespace Sys2Proof.Machine

/-! ## The entries of one engine -/

/-- The access in flight has a claim for the session of this record. -/
def EState.OwnsSession (es : EState) (w r : Nat) : Prop :=
  ∃ acc t job c, es = .inMemory acc (some t) job c ∧ (job = .stampRead ∨ job = .commit)
    ∧ t.recordOf.1 = w ∧ t.recordOf.2.1 = r

/-- The access in flight has a claim for the capture of this record. -/
def EState.OwnsCapture (es : EState) (w r : Nat) : Prop :=
  ∃ acc t c, es = .inMemory acc (some t) .capture c ∧ t.recordOf.1 = w ∧ t.recordOf.2.1 = r

theorem Engine.entriesSettled_iff (e : Engine) :
    e.EntriesSettled ↔
      (∀ ses ∈ e.sessions, ses.state ≠ .open → e.estate.OwnsSession ses.window ses.record)
        ∧ ∀ c ∈ e.captures, c.live = none → e.estate.OwnsCapture c.window c.record := Iff.rfl

/-- Every session is OPEN. -/
def AllOpen (t : List Session) : Prop := ∀ ses ∈ t, ses.state = .open

/-- Every capture is LIVE. -/
def AllLive (t : List Capture) : Prop := ∀ c ∈ t, c.live ≠ none

/-- Tables of OPEN sessions and LIVE captures are settled whatever the engine does. -/
theorem settled_of_rested (es : EState) {ss : List Session} {cs : List Capture} (hs : AllOpen ss)
    (hc : AllLive cs) : ({ estate := es, sessions := ss, captures := cs } : Engine).EntriesSettled :=
  ⟨fun ses hses hn => absurd (hs ses hses) hn, fun c hcap hn => absurd hn (hc c hcap)⟩

theorem Engine.EntriesSettled.allOpen {e : Engine} (h : e.EntriesSettled)
    (hno : ∀ w r, ¬ e.estate.OwnsSession w r) : AllOpen e.sessions := by
  intro ses hses
  by_contra hn
  exact hno _ _ (h.1 ses hses hn)

theorem Engine.EntriesSettled.allLive {e : Engine} (h : e.EntriesSettled)
    (hno : ∀ w r, ¬ e.estate.OwnsCapture w r) : AllLive e.captures :=
  fun c hc hn => hno _ _ (h.2 c hc hn)

/-- The sessions of other records than that of the access in flight are OPEN. -/
theorem Engine.EntriesSettled.others_open {e : Engine} (h : e.EntriesSettled) {acc : Access}
    {tk : Option Taken} {job : Job} {c : ClaimState} (he : e.estate = .inMemory acc tk job c) :
    AllOpen (sessionsBut (recordOf tk).1 (recordOf tk).2.1 e.sessions) := by
  intro ses hses
  rw [← dropSession_eq] at hses
  obtain ⟨hmem, hother⟩ := List.mem_filter.mp hses
  by_contra hn
  obtain ⟨acc', t', job', c', he', -, hw, hr⟩ := h.1 ses hmem hn
  obtain ⟨-, rfl, -, -⟩ : acc = acc' ∧ tk = some t' ∧ job = job' ∧ c = c' := by
    simpa using he.symm.trans he'
  have hof : ses.of (recordOf (some t')).1 (recordOf (some t')).2.1 = true :=
    (ses.of_iff _ _).mpr ⟨hw.symm, hr.symm⟩
  rw [hof] at hother
  cases hother

/-- The captures of other records than that of the access in flight are LIVE. -/
theorem Engine.EntriesSettled.others_live {e : Engine} (h : e.EntriesSettled) {acc : Access}
    {tk : Option Taken} {job : Job} {c : ClaimState} (he : e.estate = .inMemory acc tk job c) :
    AllLive (capturesBut (recordOf tk).1 (recordOf tk).2.1 e.captures) := by
  intro cap hcap hn
  rw [← dropCapture_eq] at hcap
  obtain ⟨hmem, hother⟩ := List.mem_filter.mp hcap
  obtain ⟨acc', t', c', he', hw, hr⟩ := h.2 cap hmem hn
  obtain ⟨-, rfl, -, -⟩ : acc = acc' ∧ tk = some t' ∧ job = .capture ∧ c = c' := by
    simpa using he.symm.trans he'
  have hof : cap.of (recordOf (some t')).1 (recordOf (some t')).2.1 = true :=
    (cap.of_iff _ _).mpr ⟨hw.symm, hr.symm⟩
  rw [hof] at hother
  cases hother

theorem EState.no_session_of_job {es : EState} {acc : Access} {t : Option Taken} {job : Job}
    {c : ClaimState} (he : es = .inMemory acc t job c) (hs : job ≠ .stampRead) (hc : job ≠ .commit)
    (w r : Nat) : ¬ es.OwnsSession w r := by
  rintro ⟨acc', t', job', c', he', hj, -⟩
  obtain ⟨-, -, rfl, -⟩ : acc = acc' ∧ t = some t' ∧ job = job' ∧ c = c' := by
    simpa using he.symm.trans he'
  exact hj.elim hs hc

theorem EState.no_capture_of_job {es : EState} {acc : Access} {t : Option Taken} {job : Job}
    {c : ClaimState} (he : es = .inMemory acc t job c) (hj : job ≠ .capture) (w r : Nat) :
    ¬ es.OwnsCapture w r := by
  rintro ⟨acc', t', c', he', -⟩
  obtain ⟨-, -, rfl, -⟩ : acc = acc' ∧ t = some t' ∧ job = .capture ∧ c = c' := by
    simpa using he.symm.trans he'
  exact hj rfl

/-- An engine that has nothing in the memory owns no entry. -/
theorem EState.owns_nothing {es : EState} (h : es = .idle ∨ ∃ acc, es = .held acc) (w r : Nat) :
    ¬ es.OwnsSession w r ∧ ¬ es.OwnsCapture w r := by
  obtain rfl | ⟨acc, rfl⟩ := h
  · constructor
    · rintro ⟨_, _, _, _, h, -⟩
      cases h
    · rintro ⟨_, _, _, h, -⟩
      cases h
  · constructor
    · rintro ⟨_, _, _, _, h, -⟩
      cases h
    · rintro ⟨_, _, _, h, -⟩
      cases h

theorem Engine.EntriesSettled.rested {e : Engine} (h : e.EntriesSettled)
    (he : e.estate = .idle ∨ ∃ acc, e.estate = .held acc) :
    AllOpen e.sessions ∧ AllLive e.captures :=
  ⟨h.allOpen fun w r => (EState.owns_nothing he w r).1,
    h.allLive fun w r => (EState.owns_nothing he w r).2⟩

/-- The claim of an access granted, or taken again for the same job, owns the same entries. -/
theorem Engine.EntriesSettled.regrant {e : Engine} (h : e.EntriesSettled) {acc : Access}
    {t : Option Taken} {job : Job} {c : ClaimState} (he : e.estate = .inMemory acc t job c)
    (c' : ClaimState) : ({ e with estate := .inMemory acc t job c' } : Engine).EntriesSettled := by
  obtain ⟨h1, h2⟩ := h
  refine ⟨fun ses hses hn => ?_, fun cap hcap hn => ?_⟩
  · obtain ⟨acc', t', job', c'', he', hj, hk⟩ := h1 ses hses hn
    obtain ⟨rfl, rfl, rfl, rfl⟩ : acc = acc' ∧ t = some t' ∧ job = job' ∧ c = c'' := by
      simpa using he.symm.trans he'
    exact ⟨_, _, _, _, rfl, hj, hk⟩
  · obtain ⟨acc', t', c'', he', hk⟩ := h2 cap hcap hn
    obtain ⟨rfl, rfl, rfl, rfl⟩ : acc = acc' ∧ t = some t' ∧ job = .capture ∧ c = c'' := by
      simpa using he.symm.trans he'
    exact ⟨_, _, _, rfl, hk⟩

theorem Engine.EntriesSettled.subset {e : Engine} (h : e.EntriesSettled) {ss : List Session}
    {cs : List Capture} (hs : ss ⊆ e.sessions) (hc : cs ⊆ e.captures) :
    ({ e with sessions := ss, captures := cs } : Engine).EntriesSettled :=
  ⟨fun ses hses hn => h.1 ses (hs hses) hn, fun c hcap hn => h.2 c (hc hcap) hn⟩

theorem AllOpen.subset {t t' : List Session} (h : AllOpen t) (hs : t' ⊆ t) : AllOpen t' :=
  fun ses hses => h ses (hs hses)

theorem AllLive.subset {t t' : List Capture} (h : AllLive t) (hs : t' ⊆ t) : AllLive t' :=
  fun c hc => h c (hs hc)

theorem AllOpen.append {t : List Session} {ses : Session} (h : AllOpen t) (hs : ses.state = .open) :
    AllOpen (t ++ [ses]) := by
  intro x hx
  obtain hx | hx := List.mem_append.mp hx
  · exact h x hx
  · exact List.mem_singleton.mp hx ▸ hs

theorem mem_putSession {ses y : Session} {t : List Session} (h : y ∈ putSession ses t) :
    y = ses ∨ y ∈ sessionsBut ses.window ses.record t := by
  rw [← dropSession_eq]
  obtain ⟨x, hx, rfl⟩ := List.mem_map.mp h
  split
  next => exact .inl rfl
  next hof => exact .inr (List.mem_filter.mpr ⟨hx, by simpa using hof⟩)

theorem mem_putCapture {c y : Capture} {t : List Capture} (h : y ∈ putCapture c t) :
    y = c ∨ y ∈ capturesBut c.window c.record t := by
  rw [← dropCapture_eq]
  obtain ⟨x, hx, rfl⟩ := List.mem_map.mp h
  split
  next => exact .inl rfl
  next hof => exact .inr (List.mem_filter.mpr ⟨hx, by simpa using hof⟩)

/-! ## The entries of both ports -/

/-- Both ports' entries are settled, and without a map there are none. -/
structure State.Tidy (s : State) : Prop where
  settled : ∀ p, (s.engines.get p).EntriesSettled
  bare : s.BareIsEmpty

theorem State.Tidy.same {s t : State} (h : s.Tidy) (he : t.engines = s.engines)
    (hm : t.map = s.map) : t.Tidy :=
  ⟨fun p => he ▸ h.settled p, fun hn p => he ▸ h.bare (hm ▸ hn) p⟩

theorem State.Tidy.withPort {s : State} (h : s.Tidy) (p : Port) {e : Engine} (x : Pins)
    (he : e.EntriesSettled) (hb : s.map = none → e.sessions = [] ∧ e.captures = []) :
    (s.withPort p e x).Tidy := by
  refine ⟨fun q => ?_, fun hn q => ?_⟩ <;> rw [State.withPort_engines] <;> by_cases hpq : q = p
  · subst hpq
    rwa [Both.get_set_self]
  · rw [Both.get_set_ne _ _ hpq]
    exact h.settled q
  · subst hpq
    rw [Both.get_set_self]
    exact hb hn
  · rw [Both.get_set_ne _ _ hpq]
    exact h.bare hn q

/-- A port whose entries are all OPEN and LIVE goes to any state, with no more entries. -/
theorem State.Tidy.rest {s : State} (h : s.Tidy) (p : Port) (es : EState) (x : Pins)
    {ss : List Session} {cs : List Capture} (hs : AllOpen ss) (hc : AllLive cs)
    (hss : ss ⊆ (s.engines.get p).sessions) (hcs : cs ⊆ (s.engines.get p).captures) :
    (s.withPort p { estate := es, sessions := ss, captures := cs } x).Tidy := by
  refine h.withPort p x (settled_of_rested es hs hc) fun hn => ?_
  obtain ⟨h1, h2⟩ := h.bare hn p
  rw [h1] at hss
  rw [h2] at hcs
  exact ⟨List.subset_nil.mp hss, List.subset_nil.mp hcs⟩

theorem State.map_of_active {s : State} {m : RecordMap} (hm : s.part = .active m) :
    s.map = some m := by
  simp only [State.map, hm]

theorem State.raise_engines (s : State) (r : Report) : (s.raise r).engines = s.engines := by
  obtain he | ⟨n, d, b, -, he⟩ | ⟨d, he⟩ | ⟨d, he⟩ := s.raise_cases r <;> rw [he] <;> rfl

theorem State.Tidy.raise {s : State} (h : s.Tidy) (r : Report) : (s.raise r).Tidy := by
  obtain he | ⟨n, d, b, -, he⟩ | ⟨d, he⟩ | ⟨d, he⟩ := s.raise_cases r <;> rw [he]
  · exact h
  · exact h.same rfl rfl
  · exact h.same rfl rfl
  · exact h.same rfl rfl

/-- An access that is not in the memory goes to another state. -/
theorem State.Tidy.setEState {s : State} (h : s.Tidy) {p : Port} (es : EState)
    (he : (s.engines.get p).estate = .idle ∨ ∃ acc, (s.engines.get p).estate = .held acc) :
    (s.setEState p es).Tidy := by
  obtain ⟨hs, hc⟩ := (h.settled p).rested he
  rw [State.setEState_eq]
  exact h.rest p es _ hs hc (List.Subset.refl _) (List.Subset.refl _)

/-- A write staged in the session of its record (R46 to R48). -/
theorem State.Tidy.stageWrite {s : State} (h : s.Tidy) {p : Port} {acc : Access} {t : Taken}
    {ses : Session} (o : Nat)
    (hs : AllOpen (sessionsBut ses.window ses.record (s.engines.get p).sessions))
    (hc : AllLive (s.engines.get p).captures)
    (hkey : t.recordOf.1 = ses.window ∧ t.recordOf.2.1 = ses.record) :
    (s.stageWrite p acc t ses o).Tidy := by
  have hbare : ∀ x, s.map = none →
      putSession x (s.engines.get p).sessions = [] ∧ (s.engines.get p).captures = [] := by
    intro x hn
    obtain ⟨h1, h2⟩ := h.bare hn p
    rw [h1]
    exact ⟨rfl, h2⟩
  rw [State.stageWrite_eq]
  split
  · refine h.withPort p _ ⟨fun y hy hn => ?_, fun c hcap hn => absurd hn (hc c hcap)⟩ (hbare _)
    obtain rfl | hy := mem_putSession hy
    · exact ⟨_, _, _, _, rfl, .inr rfl, hkey⟩
    · exact absurd (hs y hy) hn
  · refine h.withPort p _ (settled_of_rested _ (fun y hy => ?_) hc) (hbare _)
    obtain rfl | hy := mem_putSession hy
    · rfl
    · exact hs y hy

/-- A session opened in a window of the map in force (R39 to R42). -/
theorem State.Tidy.openSession {s : State} (h : s.Tidy) {p : Port} {acc : Access} {t : Taken}
    {w r : Nat} {m : RecordMap} (o : Nat) (b : WAddr) (hm : s.part = .active m)
    (he : (s.engines.get p).estate = .idle) (hnone : (s.engines.get p).sessionOf w r = none)
    (hkey : t.recordOf.1 = w ∧ t.recordOf.2.1 = r) : (s.openSession p acc t w r o b).1.Tidy := by
  obtain ⟨hs, hc⟩ := (h.settled p).rested (.inl he)
  have hold : AllOpen (Machine.roomForSession (s.engines.get p).sessions) :=
    hs.subset (roomForSession_sublist _).subset
  have hcaps : AllLive (capturesBut w r (s.engines.get p).captures) :=
    hc.subset (capturesBut_sublist _ _ _).subset
  have hmap : s.map ≠ none := by
    rw [State.map_of_active hm]
    exact nofun
  have hnew : ∀ {ses : Session} {job : Job}, (job = .stampRead ∨ job = .commit) →
      ses.window = w → ses.record = r →
      ({ estate := .inMemory acc (some t) job .waiting,
         sessions := Machine.roomForSession (s.engines.get p).sessions ++ [ses],
         captures := capturesBut w r (s.engines.get p).captures } : Engine).EntriesSettled := by
    intro ses job hj hw hr
    refine ⟨fun x hx hn => ?_, fun c hcap hn => absurd hn (hcaps c hcap)⟩
    obtain hx | hx := List.mem_append.mp hx
    · exact absurd (hold x hx) hn
    · obtain rfl := List.mem_singleton.mp hx
      exact ⟨_, _, _, _, rfl, hj, hkey.1.trans hw.symm, hkey.2.trans hr.symm⟩
  cases hpol : (s.spec w).policy with
  | guarded =>
    rw [State.openSession_guarded _ _ _ _ _ _ _ hpol]
    exact h.withPort p _ (hnew (.inl rfl) rfl rfl) fun hn => absurd hn hmap
  | last =>
    rw [State.openSession_last _ _ _ _ _ _ hpol hnone]
    dsimp only
    split
    · exact h.withPort p _ (hnew (.inr rfl) rfl rfl) fun hn => absurd hn hmap
    · exact h.withPort p _ (settled_of_rested _ (hold.append rfl) hcaps) fun hn => absurd hn hmap

/-- A word served from a LIVE capture, the others LIVE too (R86, R87). -/
theorem State.Tidy.serve {s : State} (h : s.Tidy) {p : Port} {acc : Access} {t : Taken}
    {c : Capture} (l : Live) (o : Nat) (hs : AllOpen (s.engines.get p).sessions)
    (hc : AllLive (capturesBut c.window c.record (s.engines.get p).captures))
    (hlive : c.live ≠ none) : (s.serve p acc t c l o).Tidy := by
  rw [State.serve_eq]
  refine h.withPort p _ (settled_of_rested _ hs ?_) fun hn => ?_
  · split
    · exact hc
    · intro y hy
      obtain rfl | hy := mem_putCapture hy
      · exact hlive
      · exact hc y hy
  · obtain ⟨h1, h2⟩ := h.bare hn p
    refine ⟨h1, ?_⟩
    rw [h2]
    split <;> rfl

/-- A capture taken in a window of the map in force (R80). -/
theorem State.Tidy.takeCapture {s : State} (h : s.Tidy) {p : Port} {acc : Access} {t : Taken}
    {w r : Nat} {m : RecordMap} (b : WAddr) (hm : s.part = .active m)
    (he : (s.engines.get p).estate = .idle) (hkey : t.recordOf.1 = w ∧ t.recordOf.2.1 = r) :
    (s.takeCapture p acc t w r b).Tidy := by
  obtain ⟨hs, hc⟩ := (h.settled p).rested (.inl he)
  rw [State.takeCapture_eq]
  refine h.withPort p _ ⟨fun x hx hn => absurd (hs x hx) hn, fun c hcap hn => ?_⟩ fun hn => ?_
  · obtain hcap | hcap := List.mem_append.mp hcap
    · exact absurd hn (hc c ((capturesBut_sublist _ _ _).subset
        ((roomForCapture_sublist _ _ _).subset hcap)))
    · obtain rfl := List.mem_singleton.mp hcap
      exact ⟨_, _, _, rfl, hkey⟩
  · rw [State.map_of_active hm] at hn
    cases hn

/-- Whatever its class, an access taken by an idle engine leaves the entries settled. -/
theorem State.Takes.tidy {s : State} {p : Port} {acc : Access} {x : State × List Report}
    (hx : s.Takes p acc x) (he : (s.engines.get p).estate = .idle) (h : s.Tidy) : x.1.Tidy := by
  obtain ⟨hs, hc⟩ := (h.settled p).rested (.inl he)
  cases hx with
  | ends out =>
    rw [State.endAccess_eq]
    exact h.rest p _ _ hs hc (List.Subset.refl _) (List.Subset.refl _)
  | holds | single => exact h.setEState _ (.inl he)
  | @watched _ _ q n =>
    exact State.Tidy.setEState (s := s.setRing q _) (h.same rfl rfl) _ (.inl he)
  | staged hm hkey hses =>
    obtain ⟨rfl, rfl, -⟩ := Engine.sessionOf_key hses
    refine h.stageWrite _ (hs.subset (sessionsBut_sublist _ _ _).subset) hc ?_
    rw [hkey]
    exact ⟨rfl, rfl⟩
  | opens hm hkey hses =>
    refine h.openSession _ _ hm he hses ?_
    rw [hkey]
    exact ⟨rfl, rfl⟩
  | serves _ _ hlive =>
    refine h.serve _ _ hs (hc.subset (capturesBut_sublist _ _ _).subset) ?_
    rw [hlive]
    exact nofun
  | takes hm hkey =>
    refine h.takeCapture _ hm he ?_
    rw [hkey]
    exact ⟨rfl, rfl⟩

/-- A grant keeps the entries settled. -/
theorem State.Tidy.grants {s t : State} (h : s.Tidy) (hg : s.Grants t) : t.Tidy := by
  obtain he | ⟨p, acc, tk, job, hw, he⟩ := hg.engines
  · exact h.same he hg.work.map
  · refine State.Tidy.same (s := s.setEState p (.inMemory acc tk job .granted)) ?_ he hg.work.map
    rw [State.setEState_eq]
    exact h.withPort p _ ((h.settled p).regrant hw _) fun hn => h.bare hn p

/-- The access in flight at a port ends, with the session of its record gone. -/
theorem State.Tidy.endSession {s : State} (h : s.Tidy) {p : Port} {acc : Access}
    {tk : Option Taken} {job : Job} {c : ClaimState}
    (he : (s.engines.get p).estate = .inMemory acc tk job c) (hj : job ≠ .capture) (o : PortOut) :
    ((s.freeSession p (recordOf tk).1 (recordOf tk).2.1).endAccess p o).Tidy := by
  rw [State.freeSession_eq, State.endAccess_eq, State.withPort_withPort, State.withPort_engines,
    Both.get_set_self]
  exact h.rest p _ _ ((h.settled p).others_open he)
    ((h.settled p).allLive (EState.no_capture_of_job he hj))
    (sessionsBut_sublist _ _ _).subset (List.Subset.refl _)

/-- The access in flight at a port ends, with the capture of its record gone. -/
theorem State.Tidy.endCapture {s : State} (h : s.Tidy) {p : Port} {acc : Access}
    {tk : Option Taken} {job : Job} {c : ClaimState}
    (he : (s.engines.get p).estate = .inMemory acc tk job c) (hs : job ≠ .stampRead)
    (hc : job ≠ .commit) (o : PortOut) :
    ((s.freeCapture p (recordOf tk).1 (recordOf tk).2.1).endAccess p o).Tidy := by
  rw [State.freeCapture_eq, State.endAccess_eq, State.withPort_withPort, State.withPort_engines,
    Both.get_set_self]
  exact h.rest p _ _ ((h.settled p).allOpen (EState.no_session_of_job he hs hc))
    ((h.settled p).others_live he) (List.Subset.refl _) (capturesBut_sublist _ _ _).subset

/-- A single operation's access ends, and no table changes. -/
theorem State.Tidy.endSingle {s : State} (h : s.Tidy) {p : Port} {acc : Access} {t : Option Taken}
    {purpose : Purpose} {c : ClaimState}
    (he : (s.engines.get p).estate = .inMemory acc t (.single purpose) c) (o : PortOut) :
    (s.endAccess p o).Tidy := by
  rw [State.endAccess_eq]
  exact h.rest p _ _ ((h.settled p).allOpen (EState.no_session_of_job he nofun nofun))
    ((h.settled p).allLive (EState.no_capture_of_job he nofun)) (List.Subset.refl _)
    (List.Subset.refl _)

theorem State.unwatch_engines (s : State) (job : Job) : (s.unwatch job).engines = s.engines := by
  unfold State.unwatch
  split <;> rfl

theorem State.Tidy.unwatch {s : State} (h : s.Tidy) (job : Job) : (s.unwatch job).Tidy :=
  h.same (s.unwatch_engines job) (s.unwatch_work job).map

/-- An access whose claim is withdrawn ends, with what its claim was for (R168). -/
theorem State.Tidy.endDropped {s : State} (h : s.Tidy) {p : Port} {acc : Access}
    {tk : Option Taken} {job : Job} {c : ClaimState}
    (he : (s.engines.get p).estate = .inMemory acc tk job c) (o : PortOut) :
    ((s.dropJob p tk job).endAccess p o).Tidy := by
  cases job with
  | single purpose =>
    refine State.Tidy.endSingle (h.unwatch (.single purpose)) (acc := acc) (t := tk)
      (purpose := purpose) (c := c) ?_ o
    rw [State.unwatch_engines, he]
  | stampRead | commit => exact h.endSession he nofun o
  | capture => exact h.endCapture he nofun nofun o

theorem State.Tidy.freeSession {s : State} (h : s.Tidy) (p : Port) (w r : Nat) :
    (s.freeSession p w r).Tidy := by
  rw [State.freeSession_eq]
  refine h.withPort p _
    ((h.settled p).subset (sessionsBut_sublist _ _ _).subset (List.Subset.refl _)) fun hn => ?_
  obtain ⟨h1, h2⟩ := h.bare hn p
  dsimp only
  rw [h1]
  exact ⟨rfl, h2⟩

theorem State.Tidy.freeCapture {s : State} (h : s.Tidy) (p : Port) (w r : Nat) :
    (s.freeCapture p w r).Tidy := by
  rw [State.freeCapture_eq]
  refine h.withPort p _
    ((h.settled p).subset (List.Subset.refl _) (capturesBut_sublist _ _ _).subset) fun hn => ?_
  obtain ⟨h1, h2⟩ := h.bare hn p
  dsimp only
  rw [h2]
  exact ⟨h1, rfl⟩

/-- The shared operations keep the entries settled. -/
theorem kept_tidy : Kept State.Tidy where
  free _ h := h.same rfl rfl
  raise r h := h.raise r
  choose h := by
    rw [State.chooseNotice_frame]
    exact h.same rfl rfl
  grants hg h := h.grants hg
  pins _ _ h := h.same rfl rfl
  drop he h := h.setEState _ (.inr ⟨_, he⟩)
  taking acc he h := (State.taking_takes _ _ acc).tidy he h
  hold hx h := by
    unfold State.holdExpiry at hx
    split at hx
    next he =>
      split at hx <;> cases hx
      obtain ⟨hs, hc⟩ := (h.settled _).rested (.inr ⟨_, he⟩)
      rw [State.endFault_eq]
      exact h.rest _ _ _ hs hc (List.Subset.refl _) (List.Subset.refl _)
    next he =>
      split at hx <;> cases hx
      exact h.endDropped he _
    · cases hx
  session hx h := by
    unfold State.sessionExpiry at hx
    repeat' split at hx
    all_goals cases hx
    exact h.freeSession _ _ _

/-! ## What the commands do beside the shared operations -/

theorem State.Tidy.answer {s : State} (h : s.Tidy) (w : WordAccess) (ans : Answer) :
    (s.answer w ans).Tidy := by
  rw [State.answer_frame]
  exact h.same rfl rfl

theorem State.answered_engines (s : State) (w : WordAccess) (ans : Answer) :
    (s.answered w ans).engines = s.engines := by
  rw [State.answered, s.answer_frame]

theorem State.expired_engines (s : State) (w : WordAccess) :
    (s.expired w).engines = s.engines := by
  rw [State.expired, s.landExpired_frame]

theorem State.Tidy.answered {s : State} (h : s.Tidy) (w : WordAccess) (ans : Answer) :
    (s.answered w ans).Tidy :=
  h.same (s.answered_engines w ans) (s.answered_lines w ans).map

theorem State.Tidy.expired {s : State} (h : s.Tidy) (w : WordAccess) : (s.expired w).Tidy :=
  h.same (s.expired_engines w) (s.expired_lines w).map

/-- A port's tables emptied. -/
theorem State.Tidy.emptied {s : State} (h : s.Tidy) (p : Port) (es : EState) :
    (((s.setEState p es).setSessions p []).setCaptures p []).Tidy := by
  rw [State.setCaptures_eq, State.setSessions_eq, State.setEState_eq, State.withPort_withPort,
    State.withPort_withPort]
  simp only [State.withPort_engines, State.withPort_pins, Both.get_set_self]
  exact h.rest p es _ (fun _ => nofun) (fun _ => nofun) (List.nil_subset _) (List.nil_subset _)

/-- What a load does at one port: it leaves the entries of an operation being carried, or none (R57,
R94). -/
theorem State.Tidy.emptyForLoad {s : State} (h : s.Tidy) (p : Port) : (s.emptyForLoad p).Tidy := by
  unfold State.emptyForLoad
  dsimp only
  split
  · rw [State.setCaptures_eq, State.setSessions_eq, State.withPort_withPort]
    simp only [State.withPort_engines, State.withPort_pins, Both.get_set_self]
    refine h.withPort p _ ((h.settled p).subset List.filter_sublist.subset List.filter_sublist.subset)
      fun hn => ?_
    obtain ⟨h1, h2⟩ := h.bare hn p
    dsimp only
    rw [h1, h2]
    exact ⟨rfl, rfl⟩
  · unfold State.withdraw
    split
    · exact (h.unwatch _).emptied p _
    · have hself : s.setEState p (s.engines.get p).estate = s := by
        rw [State.setEState_eq, State.withPort_self]
      have := h.emptied p (s.engines.get p).estate
      rwa [hself] at this

theorem State.Tidy.clearIfLoading {s : State} (h : s.Tidy) (p : Port) :
    (s.clearIfLoading p).Tidy := by
  unfold State.clearIfLoading
  split
  · exact Kept.raiseAll kept_tidy _ (h.emptyForLoad p)
  · exact h

theorem State.Tidy.beginLoad {s : State} (h : s.Tidy) (p : Port) (n : Nat) (gf : Bool)
    (entry : EntryOrder) : (s.beginLoad p n gf entry).Tidy := by
  have hevents := Kept.grantIf kept_tidy gf (Kept.takeEvents kept_tidy entry.events h)
  have henter : (((s.takeEvents entry.events).1.grantIf gf).enterLoading p n).Tidy :=
    hevents.same rfl rfl
  exact Kept.raiseAll kept_tidy _ ((henter.emptyForLoad .a).emptyForLoad .b)

theorem State.releaseDeferred_engines (s : State) : s.releaseDeferred.engines = s.engines := by
  unfold State.releaseDeferred
  split <;> rfl

theorem State.Tidy.endLoad {s : State} (h : s.Tidy) (ld : Load) (order : EndOrder) :
    (s.endLoad ld order).Tidy :=
  Kept.endLoad kept_tidy ld order (h.same s.releaseDeferred_engines s.releaseDeferred_work.map)

theorem State.Tidy.endFailed {s : State} {ld : Load} (h : s.Tidy) (order : EndOrder)
    (hl : s.part = .loading ld) : (s.endFailed ld order).Tidy :=
  State.Tidy.endLoad (s := { s with part := ld.fromState }) (h.same rfl (Load.fromState_map hl))
    ld order

theorem State.Tidy.install {s : State} (h : s.Tidy) (cand : RecordMap) : (s.install cand).Tidy :=
  ⟨h.settled, nofun⟩

theorem State.Tidy.fillCapture {s : State} (h : s.Tidy) {p : Port} {acc : Access} {t : Taken}
    {c : Capture} (hf : s.CarriesCapture p acc t c) (words : List Word) :
    (s.fillCapture p acc t c words).Tidy := by
  obtain ⟨hc, hcap⟩ := hf
  obtain ⟨hw, hr, -⟩ := Engine.captureOf_key hcap
  have hserve : ∀ {v : State} (l : Live), v.Tidy → v.engines = s.engines →
      (v.serve p acc t { c with live := some l } l t.recordOf.2.2.1).Tidy := by
    intro v l hv he
    refine hv.serve l _ ?_ ?_ nofun
    · rw [he]
      exact (h.settled p).allOpen (EState.no_session_of_job hc nofun nofun)
    · rw [he]
      dsimp only
      rw [hw, hr]
      exact (h.settled p).others_live hc
  unfold State.fillCapture
  dsimp only
  split
  · exact hserve _ (h.raise _) (s.raise_engines _)
  · exact hserve _ h rfl

theorem State.Tidy.failLoad {s : State} {ld : Load} (h : s.Tidy) (r : LoadResult)
    (hl : s.part = .loading ld) : (s.failLoad ld r).Tidy :=
  h.same rfl (State.failLoad_lines r hl).map

theorem State.claimInstall_engines (s : State) (cand : RecordMap) :
    (s.claimInstall cand).engines = s.engines := by
  unfold State.claimInstall
  repeat' split
  all_goals rfl

theorem State.applyVerdict_engines (s : State) (ld : Load) (v : Verdict) :
    (s.applyVerdict ld v).engines = s.engines := by
  cases v with
  | fails r => rfl
  | passes cand => exact State.claimInstall_engines _ cand

theorem State.claimAfterHeader_engines (s : State) (cand : RecordMap) (q : Port) :
    (s.claimAfterHeader cand q).engines = s.engines := by
  unfold State.claimAfterHeader
  repeat' split
  all_goals rfl

theorem State.Tidy.expireSingle {s : State} (h : s.Tidy) (p : Port) : (s.expireSingle p).Tidy := by
  unfold State.expireSingle
  split
  next acc tk purpose hf =>
    have hend : ((s.unwatch (.single purpose)).endFault p acc).Tidy :=
      h.endDropped (State.inFlight_carries hf) _
    dsimp only
    split
    · exact hend
    · exact hend.raise _
  · exact h

theorem State.Tidy.expireStampRead {s : State} (h : s.Tidy) (p : Port) :
    (s.expireStampRead p).Tidy := by
  unfold State.expireStampRead
  split
  next hf =>
    exact Kept.free kept_tidy _ ((h.endSession (State.flight_carries hf) nofun _).raise _)
  · exact h

theorem State.Tidy.expireCapture {s : State} (h : s.Tidy) (p : Port) (g : Granted) :
    (s.expireCapture p g).Tidy := by
  unfold State.expireCapture
  split
  next hf => exact (h.endCapture (State.flight_carries hf) nofun nofun _).raise _
  · exact h

theorem State.Tidy.expireReading {s : State} (h : s.Tidy) (p : Port) (w : WordAccess) :
    (s.expireReading p w).Tidy := by
  unfold State.expireReading
  split
  next hf => exact (h.endSession (State.flight_carries hf) nofun _).raise _
  · exact h

theorem State.enterTorn_engines (s : State) (base : WAddr) (w : Nat) :
    (s.enterTorn base w).engines = s.engines := by
  unfold State.enterTorn
  dsimp only
  repeat' split
  · rfl
  · rfl
  · rfl
  · exact State.raise_engines _ _

theorem State.Tidy.expireWriting {s : State} (h : s.Tidy) (p : Port) (g : Granted) :
    (s.expireWriting p g).Tidy := by
  unfold State.expireWriting
  split
  next acc t hf =>
    have hc := State.flight_carries hf
    unfold State.Carries at hc
    have htorn := h.same (s.enterTorn_engines t.recordOf.2.2.2 t.recordOf.1)
      (s.enterTorn_lines t.recordOf.2.2.2 t.recordOf.1).map
    rw [← s.enterTorn_engines t.recordOf.2.2.2 t.recordOf.1] at hc
    exact (htorn.endSession hc nofun _).raise _
  · exact h

theorem State.expireNotice_engines (s : State) (p : Port) (entry handles : Bool) :
    (s.expireNotice p entry handles).engines = s.engines := by
  unfold State.expireNotice
  dsimp only
  split <;> rfl

theorem State.Tidy.expireNotice {s : State} (h : s.Tidy) (p : Port) (entry handles : Bool) :
    (s.expireNotice p entry handles).Tidy :=
  h.same (s.expireNotice_engines p entry handles) (s.expireNotice_work p entry handles).map

theorem State.Tidy.expireLoader {s : State} (h : s.Tidy) (order : EndOrder) :
    (s.expireLoader order).Tidy := by
  have hgrant := Kept.grantIf kept_tidy order.grantAtEnd h
  have hpart : (s.grantIf order.grantAtEnd).part = s.part := by rw [s.grantIf_work]
  unfold State.expireLoader
  dsimp only
  split
  next hl =>
    rw [← hpart] at hl
    split
    · split
      · exact hgrant.endFailed order hl
      · exact hgrant.failLoad _ hl
    · exact hgrant.failLoad _ hl
  · exact h

theorem State.Tidy.expire {s : State} (h : s.Tidy) (g : Granted) (w : WordAccess)
    (order : EndOrder) : (s.expire g w order).Tidy := by
  unfold State.expire
  split
  · exact Kept.chooseAfter kept_tidy _ (h.expireSingle _)
  · exact Kept.chooseAfter kept_tidy _ (h.expireStampRead _)
  · exact Kept.chooseAfter kept_tidy _ (h.expireCapture _ _)
  · exact Kept.chooseAfter kept_tidy _ (h.expireReading _ _)
  · exact Kept.chooseAfter kept_tidy _ (h.expireWriting _ _)
  · exact Kept.chooseAfter kept_tidy _ (h.expireNotice _ _ _)
  · exact Kept.chooseAfter kept_tidy _ (h.expireNotice _ _ _)
  · exact Kept.chooseAfter kept_tidy _ (h.expireNotice _ _ _)
  · exact Kept.choose kept_tidy (h.expireLoader _)
  · exact Kept.choose kept_tidy (h.expireLoader _)
  · exact Kept.choose kept_tidy (h.expireLoader _)

theorem State.afterReset_tidy (s : State) : s.afterReset.Tidy := by
  have he : ∀ p, s.afterReset.engines.get p = Engine.empty := fun p => Both.get_same _ _
  refine ⟨fun p => ?_, fun _ p => ?_⟩
  · rw [he]
    exact settled_of_rested _ (fun _ => nofun) (fun _ => nofun)
  · rw [he]
    exact ⟨rfl, rfl⟩

/-- An access that is taken leaves the other port's engine and pins. -/
theorem State.Takes.other {s : State} {p q : Port} {acc : Access} {x : State × List Report}
    (hx : s.Takes p acc x) (hq : q ≠ p) :
    x.1.engines.get q = s.engines.get q ∧ x.1.pins.get q = s.pins.get q := by
  have hport : ∀ (v : State) e y, (v.withPort p e y).engines.get q = v.engines.get q
      ∧ (v.withPort p e y).pins.get q = v.pins.get q :=
    fun v e y => ⟨Both.get_set_ne _ _ hq, Both.get_set_ne _ _ hq⟩
  cases hx with
  | ends => exact hport s _ _
  | holds | single => exact ⟨Both.get_set_ne _ _ hq, rfl⟩
  | watched => exact ⟨Both.get_set_ne _ _ hq, rfl⟩
  | staged =>
    rw [State.stageWrite_eq]
    split <;> exact hport s _ _
  | opens _ _ hses =>
    cases hpol : (s.spec _).policy with
    | guarded =>
      rw [State.openSession_guarded _ _ _ _ _ _ _ hpol]
      exact hport s _ _
    | last =>
      rw [State.openSession_last _ _ _ _ _ _ hpol hses]
      dsimp only
      split <;> exact hport s _ _
  | serves =>
    rw [State.serve_eq]
    exact hport s _ _
  | takes =>
    rw [State.takeCapture_eq]
    exact hport s _ _

theorem State.raiseAll_engines (s : State) (l : List Report) :
    (s.raiseAll l).engines = s.engines := by
  induction l generalizing s with
  | nil => rfl
  | cons r rs ih => exact (ih (s.raise r)).trans (s.raise_engines r)

/-- A grant leaves an engine that is IDLE. -/
theorem State.arbitrate_idle {s : State} {q : Port} (h : (s.engines.get q).estate = .idle) :
    (s.arbitrate.engines.get q).estate = .idle := by
  obtain he | ⟨p, acc, tk, job, hw, he⟩ := s.arbitrate_grants.engines
  · rw [he, h]
  · rw [he, State.setEState_engines]
    by_cases hq : q = p
    · subst hq
      rw [h] at hw
      cases hw
    · rw [Both.get_set_ne _ _ hq, h]

theorem State.arriveAtRelease_other {s : State} {p q : Port} (hq : q ≠ p) :
    (s.arriveAtRelease p).engines.get q = s.engines.get q := by
  unfold State.arriveAtRelease
  split
  · rfl
  · rw [State.takeAccess, received, State.raiseAll_engines]
    exact ((State.taking_takes _ _ _).other hq).1

theorem Kept.arriveAtRelease {P : State → Prop} (K : Kept P) {s : State} {p : Port}
    (hidle : (s.engines.get p).estate = .idle) (h : P s) : P (s.arriveAtRelease p) := by
  unfold State.arriveAtRelease
  split
  · exact h
  · exact K.takeAccess _ hidle h

/-- What the shared operations keep, the arrivals at the release of RESET keep. -/
theorem Kept.arriveBoth {P : State → Prop} (K : Kept P) {s : State}
    (hidle : ∀ p, (s.engines.get p).estate = .idle) (h : P s) : P s.arriveBoth := by
  have hsecond : ∀ (v : State) {p q : Port}, v.engines = s.engines → q ≠ p →
      ((v.arriveAtRelease p).engines.get q).estate = .idle := by
    intro v p q he hq
    rw [State.arriveAtRelease_other hq, he, hidle]
  unfold State.arriveBoth
  split
  · dsimp only
    have hf := K.free (s.freeCount + 1) h
    split
    · exact K.arriveAtRelease (hsecond _ rfl nofun) (K.arriveAtRelease (hidle _) hf)
    · exact K.arriveAtRelease (State.arbitrate_idle (hsecond _ rfl nofun))
        (K.arbitrate (K.arriveAtRelease (hidle _) hf))
    · exact K.arriveAtRelease (State.arbitrate_idle (hsecond _ rfl nofun))
        (K.arbitrate (K.arriveAtRelease (hidle _) hf))
  · exact K.arriveAtRelease (hsecond _ rfl nofun) (K.arriveAtRelease (hidle _) h)

/-- An operation ends that was carried for a session, which is freed. -/
theorem State.Tidy.endCarried {s v : State} (h : v.Tidy) (he : v.engines = s.engines) {p : Port}
    {acc : Access} {t : Taken} {job : Job} {ses : Session} (hf : s.CarriesFor p acc t job ses)
    (hj : job ≠ .capture) (o : PortOut) :
    ((v.freeSession p ses.window ses.record).endAccess p o).Tidy := by
  obtain ⟨hc, hses⟩ := hf
  obtain ⟨hw, hr, -⟩ := Engine.sessionOf_key hses
  unfold State.Carries at hc
  rw [← he] at hc
  rw [hw, hr]
  exact h.endSession hc hj o

/-- A single operation ends that was carried for an access. -/
theorem State.Tidy.endCarriedSingle {s v : State} (h : v.Tidy) (he : v.engines = s.engines)
    {p : Port} {acc : Access} {t : Option Taken} {purpose : Purpose}
    (hf : s.Carries p acc t (.single purpose)) (o : PortOut) : (v.endAccess p o).Tidy := by
  unfold State.Carries at hf
  rw [← he] at hf
  exact h.endSingle hf o

/-- R35, R37, R76, R78: every command keeps the entries settled. -/
theorem Effect.tidy {s t : State} {c : Instr} (heff : Effect s c t) (hh : s.HeldInReset)
    (h : s.Tidy) : t.Tidy := by
  cases heff with
  | stays => exact h
  | reset => exact s.afterReset_tidy
  | release hr =>
    refine Kept.arriveBoth kept_tidy (fun p => ?_) (h.same (t := s.released _) rfl rfl)
    have he := (hh.emptied hr).engine p
    exact congrArg Engine.estate he
  | strobe | tick | stray | ackReleased => exact h.same rfl rfl
  | access => exact Kept.present kept_tidy _ _ h
  | grant => exact Kept.choose kept_tidy (Kept.arbitrate kept_tidy h)
  | @word ans g w => exact (h.answered w ans).same rfl rfl
  | @commitWord _ ans g w rest => cases rest <;> exact (h.answered w ans).same rfl rfl
  | @single ans g w p _ _ _ _ _ hf =>
    exact (h.answered w ans).endCarriedSingle (s.answered_engines w ans) hf _
  | @count ans g w p q _ _ n _ _ hf =>
    exact State.Tidy.endCarriedSingle (v := (s.answered w ans).takeCount q n)
      ((h.answered w ans).same rfl rfl) (s.answered_engines w ans) hf _
  | @request ans _ _ g w p acc _ _ _ _ hf =>
    have hend : ((s.answered w ans).endReady p acc 0).Tidy :=
      (h.answered w ans).endCarriedSingle (s.answered_engines w ans) hf _
    split
    · exact hend
    · exact Kept.choose kept_tidy (State.Tidy.beginLoad (Kept.grantIf kept_tidy _ hend) _ _ _ _)
  | @stampRead ans g w p acc t ses _ _ hf gen =>
    obtain ⟨hc, hses⟩ := hf
    obtain ⟨hw, hr, -⟩ := Engine.sessionOf_key hses
    refine Kept.choose kept_tidy (State.Tidy.clearIfLoading
      ((h.answered w ans).stageWrite
        (ses := { ses with baseGen := some gen, opened := some s.timebase }) _ ?_ ?_
        ⟨hw.symm, hr.symm⟩) _)
    · rw [State.answered_engines]
      dsimp only
      rw [hw, hr]
      exact (h.settled p).others_open hc
    · rw [State.answered_engines]
      exact (h.settled p).allLive (EState.no_capture_of_job hc nofun)
  | @stale ans g w rest p acc t ses _ _ hf =>
    exact Kept.chooseAfter kept_tidy _ (((h.answered w ans).endCarried
      (s.answered_engines w ans) hf nofun _).raise _)
  | @committed ans g w p acc t ses _ _ hf =>
    exact State.Tidy.endCarried (v := (s.answered w ans).healTorn ses.base ses.window)
      ((h.answered w ans).same rfl rfl) (s.answered_engines w ans) hf nofun _
  | @captured ans g w p acc t c _ _ hf words =>
    refine Kept.chooseAfter kept_tidy _ (State.Tidy.clearIfLoading
      ((h.answered w ans).fillCapture ?_ words) _)
    unfold State.CarriesCapture State.Carries at *
    rw [State.answered_engines]
    exact hf
  | @entryBurst ans g w | @fullRingBurst ans g w | @lossReport ans g w =>
    exact Kept.choose kept_tidy ((h.answered w ans).same rfl rfl)
  | @inProgress ans g w ld _ _ hl =>
    exact (h.answered w ans).same rfl (State.toPhase_lines _ (by simpa using hl)).map
  | drained hl => exact h.same rfl (State.toPhase_lines _ hl).map
  | @imageRead ans g w ld _ _ hl =>
    exact (h.answered w ans).same (State.applyVerdict_engines _ _ _)
      (State.applyVerdict_lines _ (by simpa using hl)).map
  | @header ans g w =>
    exact (h.answered w ans).same (State.claimAfterHeader_engines _ _ _)
      (State.claimAfterHeader_lines _ _ _).map
  | @done ans _ g w => exact ((h.answered w ans).install _).endLoad _ _
  | @failed ans order g w ld _ _ hl =>
    refine (Kept.grantIf kept_tidy _ (h.answered w ans)).endFailed _ ?_
    rw [State.grantIf_work]
    simpa using hl
  | @failedLate order g w rest ld _ _ hl =>
    refine (Kept.grantIf kept_tidy _ (h.expired w)).endFailed _ ?_
    rw [State.grantIf_work, State.expired, State.landExpired_frame]
    exact hl
  | expires => exact (h.expired _).expire _ _ _
  | hold hx => exact Kept.choose kept_tidy ((Kept.hold kept_tidy hx h).raise _)
  | session hx => exact Kept.choose kept_tidy ((Kept.session kept_tidy hx h).raise _)
  | captureLimit => exact h.freeCapture _ _ _

/-- Settles O55: each command's effect keeps the entries settled, and what RESET left. -/
theorem stepKeepsEntriesSettled : Obligations.StepKeepsEntriesSettled := by
  intro s t hset hbare hh hstep
  have hkeep : t.Tidy ∧ t.HeldInReset :=
    step_keeps (P := fun v => v.Tidy ∧ v.HeldInReset) (Q := fun v => v.Tidy ∧ v.HeldInReset) hstep
      (fun rest h => ⟨h.1.same rfl rfl, h.2.pending rest⟩) id
      (fun e h => ⟨e.tidy h.2 h.1, e.held h.2⟩) ⟨⟨hset, hbare⟩, hh⟩
  exact ⟨hkeep.1.settled, hkeep.1.bare, hkeep.2⟩

end Sys2Proof.Machine
end

section
/-! PROOFS. CLAIM and GRANTED (R96, R98, R102, R164): an engine's claim is GRANTED exactly for the
operation carried, and no claim waits in LOADING. -/

namespace Sys2Proof.Machine

/-! ## The operation carried and the engine it is carried for -/

theorem Op.serves_port {op : Op} {p : Port} {job : Job} (h : op.serves p job) :
    op.port = some p := by
  unfold Op.serves at h
  split at h
  · exact congrArg some h
  · exact congrArg some h
  · exact congrArg some h
  · exact congrArg some h
  · exact h.elim

/-- An engine has no operation carried. -/
def EState.Uncarried (es : EState) : Prop := ∀ acc t job, es ≠ .inMemory acc t job .granted

/-- An access without a class claims single operations alone. -/
def EState.Classed (es : EState) : Prop :=
  ∀ acc job c, es = .inMemory acc none job c → ∃ purpose, job = .single purpose

theorem EState.idle_uncarried : EState.idle.Uncarried := fun _ _ _ h => nomatch h
theorem EState.idle_classed : EState.idle.Classed := fun _ _ _ h => nomatch h
theorem EState.held_uncarried (acc : Access) : (EState.held acc).Uncarried :=
  fun _ _ _ h => nomatch h

theorem EState.held_classed (acc : Access) : (EState.held acc).Classed := fun _ _ _ h => nomatch h

theorem EState.waiting_uncarried (acc : Access) (t : Option Taken) (job : Job) :
    (EState.inMemory acc t job .waiting).Uncarried := by
  intro _ _ _ h
  cases h

theorem EState.classed_of_taken (acc : Access) (t : Taken) (job : Job) (c : ClaimState) :
    (EState.inMemory acc (some t) job c).Classed := by
  intro _ _ _ h
  cases h

theorem EState.classed_of_single (acc : Access) (t : Option Taken) (purpose : Purpose)
    (c : ClaimState) : (EState.inMemory acc t (.single purpose) c).Classed := by
  intro _ _ _ h
  cases h
  exact ⟨_, rfl⟩

theorem State.ClaimsAgree.classed {s : State} (h : s.ClaimsAgree) (p : Port) :
    (s.engines.get p).estate.Classed := h.2.2 p

/-- An operation is carried for one port alone. -/
theorem State.ClaimsAgree.uncarried {s : State} (h : s.ClaimsAgree) {g : Granted}
    (hg : s.granted = some g) {q : Port} (hq : g.op.port ≠ some q) :
    (s.engines.get q).estate.Uncarried := by
  intro acc t job he
  obtain ⟨g', hg', hs⟩ := h.1 q acc t job he
  obtain rfl : g = g' := Option.some.inj (hg.symm.trans hg')
  exact hq (Op.serves_port hs)

theorem State.ClaimsAgree.uncarried_of_idle {s : State} (h : s.ClaimsAgree)
    (hg : s.granted = none) (q : Port) : (s.engines.get q).estate.Uncarried := by
  intro acc t job he
  obtain ⟨g', hg', -⟩ := h.1 q acc t job he
  rw [hg] at hg'
  cases hg'

/-- With no engine's operation carried the claims agree if what is carried is no engine's. -/
theorem State.ClaimsAgree.of_uncarried {s : State}
    (hun : ∀ q, (s.engines.get q).estate.Uncarried) (hcl : ∀ q, (s.engines.get q).estate.Classed)
    (hg : ∀ g, s.granted = some g → g.op.port = none) : s.ClaimsAgree := by
  refine ⟨fun p acc t job he => absurd he (hun p acc t job), fun g p hsome hport => ?_, hcl⟩
  rw [hg g hsome] at hport
  cases hport

/-- The same engine states, and an operation carried that serves the same claims. -/
theorem State.ClaimsAgree.reissue {s t : State} (h : s.ClaimsAgree)
    (he : ∀ p, (t.engines.get p).estate = (s.engines.get p).estate)
    (hg : t.granted.map (fun g => g.op.serves) = s.granted.map fun g => g.op.serves)
    (hport : t.granted.map (fun g => g.op.port) = s.granted.map fun g => g.op.port) :
    t.ClaimsAgree := by
  have hcar : ∀ {p acc tk job}, t.Carries p acc tk job ↔ s.Carries p acc tk job := by
    intro p acc tk job
    unfold State.Carries
    rw [he]
  obtain ⟨h1, h2, h3⟩ := h
  refine ⟨fun p acc tk job hc => ?_, fun g p hsome hp => ?_, fun p => by rw [he]; exact h3 p⟩
  · obtain ⟨g, hsome, hs⟩ := h1 p acc tk job (hcar.mp hc)
    rw [hsome, Option.map_some, Option.map_eq_some_iff] at hg
    obtain ⟨g', hg', hsv⟩ := hg
    exact ⟨g', hg', hsv ▸ hs⟩
  · rw [hsome, Option.map_some, eq_comm, Option.map_eq_some_iff] at hg hport
    obtain ⟨g', hg', hsv⟩ := hg
    obtain ⟨g'', hg'', hpt⟩ := hport
    obtain rfl : g' = g'' := Option.some.inj (hg'.symm.trans hg'')
    obtain ⟨acc, tk, job, hc, hs⟩ := h2 g' p hg' (hpt.trans hp)
    exact ⟨acc, tk, job, hcar.mpr hc, hsv ▸ hs⟩

theorem State.ClaimsAgree.same {s t : State} (h : s.ClaimsAgree) (he : t.engines = s.engines)
    (hg : t.granted = s.granted) : t.ClaimsAgree :=
  h.reissue (fun _ => by rw [he]) (by rw [hg]) (by rw [hg])

/-- An engine with no operation carried goes to a state with none carried. -/
theorem State.ClaimsAgree.setEState {s : State} (h : s.ClaimsAgree) {p : Port} {es : EState}
    (hold : (s.engines.get p).estate.Uncarried) (hun : es.Uncarried) (hcl : es.Classed) :
    (s.setEState p es).ClaimsAgree := by
  have hself : ((s.setEState p es).engines.get p).estate = es := by
    rw [State.setEState_engines, Both.get_set_self]
  have hother : ∀ {q}, q ≠ p →
      ((s.setEState p es).engines.get q).estate = (s.engines.get q).estate := by
    intro q hq
    rw [State.setEState_engines, Both.get_set_ne _ _ hq]
  obtain ⟨h1, h2, h3⟩ := h
  refine ⟨fun q acc t job hc => ?_, fun g q hg hport => ?_, fun q => ?_⟩
  · by_cases hq : q = p
    · subst hq
      exact absurd (hself.symm.trans hc) (hun _ _ _)
    · exact h1 q acc t job ((hother hq).symm.trans hc)
  · obtain ⟨acc, t, job, hc, hs⟩ := h2 g q hg hport
    have hq : q ≠ p := by
      rintro rfl
      exact hold _ _ _ hc
    exact ⟨acc, t, job, (hother hq).trans hc, hs⟩
  · by_cases hq : q = p
    · subst hq
      rw [hself]
      exact hcl
    · rw [hother hq]
      exact h3 q

/-- One port's engine changes, from no operation carried to none carried. -/
theorem State.ClaimsAgree.port {s t : State} (h : s.ClaimsAgree) (p : Port)
    (hg : t.granted = s.granted) (hother : ∀ q, q ≠ p → t.engines.get q = s.engines.get q)
    (hold : (s.engines.get p).estate.Uncarried) (hun : (t.engines.get p).estate.Uncarried)
    (hcl : (t.engines.get p).estate.Classed) : t.ClaimsAgree := by
  refine (h.setEState hold hun hcl).reissue (fun q => ?_) (by rw [hg]; rfl) (by rw [hg]; rfl)
  rw [State.setEState_engines]
  by_cases hq : q = p
  · subst hq
    rw [Both.get_set_self]
  · rw [Both.get_set_ne _ _ hq, hother q hq]

/-- An access that is taken has no operation carried yet (R98, R164). -/
theorem State.Takes.estate {s : State} {p : Port} {acc : Access} {x : State × List Report}
    (hx : s.Takes p acc x) :
    (x.1.engines.get p).estate.Uncarried ∧ (x.1.engines.get p).estate.Classed := by
  have hself : ∀ (v : State) e y, (v.withPort p e y).engines.get p = e :=
    fun v e y => Both.get_set_self _ _ _
  have hset : ∀ (v : State) es, ((v.setEState p es).engines.get p).estate = es := by
    intro v es
    rw [State.setEState_engines, Both.get_set_self]
  have hclaim : ∀ (t : Taken) job, (EState.inMemory acc (some t) job .waiting).Uncarried
      ∧ (EState.inMemory acc (some t) job .waiting).Classed :=
    fun t job => ⟨EState.waiting_uncarried _ _ _, EState.classed_of_taken _ _ _ _⟩
  have hidle : EState.idle.Uncarried ∧ EState.idle.Classed :=
    ⟨EState.idle_uncarried, EState.idle_classed⟩
  cases hx with
  | ends =>
    rw [State.endAccess_eq, hself]
    exact hidle
  | holds =>
    rw [hset]
    exact ⟨EState.held_uncarried _, EState.held_classed _⟩
  | single =>
    rw [State.claim, hset]
    exact ⟨EState.waiting_uncarried _ _ _, EState.classed_of_single _ _ _ _⟩
  | watched =>
    rw [State.claim, hset]
    exact hclaim _ _
  | staged =>
    rw [State.stageWrite_eq]
    split <;> rw [hself]
    · exact hclaim _ _
    · exact hidle
  | opens _ _ hses =>
    cases hpol : (s.spec _).policy with
    | guarded =>
      rw [State.openSession_guarded _ _ _ _ _ _ _ hpol, hself]
      exact hclaim _ _
    | last =>
      rw [State.openSession_last _ _ _ _ _ _ hpol hses]
      dsimp only
      split <;> rw [hself]
      · exact hclaim _ _
      · exact hidle
  | serves =>
    rw [State.serve_eq, hself]
    exact hidle
  | takes =>
    rw [State.takeCapture_eq, hself]
    exact hclaim _ _

theorem State.taking_granted (s : State) (p : Port) (acc : Access) :
    (s.taking p acc).1.granted = s.granted := by
  rw [State.taking_work]

theorem State.dropJob_other (s : State) (p : Port) (tk : Option Taken) (job : Job) {q : Port}
    (hq : q ≠ p) : (s.dropJob p tk job).engines.get q = s.engines.get q := by
  cases job with
  | single purpose => exact congrArg (fun e : Both Engine => e.get q) (s.unwatch_engines _)
  | stampRead | commit | capture => exact Both.get_set_ne _ _ hq

theorem State.endAccess_engine (s : State) (p : Port) (o : PortOut) :
    ((s.endAccess p o).engines.get p).estate = .idle := by
  rw [State.endAccess_eq, State.withPort_engines, Both.get_set_self]

theorem State.endAccess_other (s : State) (p : Port) (o : PortOut) {q : Port} (hq : q ≠ p) :
    (s.endAccess p o).engines.get q = s.engines.get q := by
  rw [State.endAccess_eq, State.withPort_engines, Both.get_set_ne _ _ hq]

/-- The hold limit ends an access that is not in the memory, and leaves the other port's engine. -/
theorem State.holdExpiry_engines {s t : State} {p : Port} {r : Report}
    (h : s.holdExpiry p = some (t, r)) :
    (s.engines.get p).estate.Uncarried ∧ (t.engines.get p).estate = .idle
      ∧ ∀ q, q ≠ p → t.engines.get q = s.engines.get q := by
  unfold State.holdExpiry at h
  split at h
  next he =>
    split at h <;> cases h
    rw [he]
    exact ⟨EState.held_uncarried _, s.endAccess_engine p _, fun q hq => s.endAccess_other p _ hq⟩
  next he =>
    split at h <;> cases h
    rw [he]
    refine ⟨EState.waiting_uncarried _ _ _, State.endAccess_engine _ p _, fun q hq => ?_⟩
    exact (State.endAccess_other _ p _ hq).trans (s.dropJob_other p _ _ hq)
  · cases h

theorem State.sessionExpiry_estate {s t : State} {p : Port} {w k : Nat} {r : Report}
    (h : s.sessionExpiry p w k = some (t, r)) (q : Port) :
    (t.engines.get q).estate = (s.engines.get q).estate := by
  unfold State.sessionExpiry at h
  repeat' split at h
  all_goals cases h
  rw [State.freeSession_eq, State.withPort_engines]
  by_cases hq : q = p
  · subst hq
    rw [Both.get_set_self]
  · rw [Both.get_set_ne _ _ hq]

/-- What the loader's and the Notice Unit's grants issue is no engine's operation. -/
theorem State.startLoader_granted (s : State) (c : LoaderClaim) (hg : s.granted = none) (g : Granted)
    (h : (s.startLoader c).granted = some g) : g.op.port = none := by
  unfold State.startLoader at h
  split at h
  · cases h
    rfl
  · split at h
    · cases h
      rfl
    · rw [hg] at h
      cases h
  · split at h
    · split at h
      · cases h
        rfl
      · rw [hg] at h
        cases h
    · rw [hg] at h
      cases h

theorem State.startNotice_granted (s : State) (c : NoticeClaim) (hg : s.granted = none) (g : Granted)
    (h : (s.startNotice c).granted = some g) : g.op.port = none := by
  unfold State.startNotice at h
  split at h
  · split at h
    · rw [hg] at h
      cases h
    · cases h
      rfl
  · split at h
    · dsimp only at h
      split at h <;> (cases h; rfl)
    · rw [hg] at h
      cases h

/-- What a port's grant issues serves the claim that it grants. -/
theorem State.startPort_granted {s : State} {p : Port} {acc : Access} {t : Option Taken} {job : Job}
    {c : ClaimState} (he : (s.engines.get p).estate = .inMemory acc t job c) :
    ∃ g, (s.startPort p).granted = some g ∧ g.op.serves p job := by
  simp only [State.startPort, he]
  cases job with
  | commit =>
    dsimp only
    unfold State.startCommit
    dsimp only
    split
    · exact ⟨_, rfl, rfl⟩
    · exact ⟨_, rfl, rfl⟩
  | single | stampRead | capture => exact ⟨_, rfl, rfl⟩

theorem State.ClaimsAgree.grants {s t : State} (h : s.ClaimsAgree) (hg : s.Grants t) :
    t.ClaimsAgree := by
  cases hg with
  | nothing => exact h
  | @loader c hn _ =>
    have he := State.startLoader_engines { s with loaderClaim := none } c
    refine State.ClaimsAgree.of_uncarried (fun q => ?_) (fun q => ?_)
      (State.startLoader_granted _ _ hn)
    · rw [he]
      exact h.uncarried_of_idle hn q
    · rw [he]
      exact h.classed q
  | @notice c x hn _ =>
    have he := State.startNotice_engines { s with pointer := x, noticeClaim := none } c
    refine State.ClaimsAgree.of_uncarried (fun q => ?_) (fun q => ?_)
      (State.startNotice_granted _ _ hn)
    · rw [he]
      exact h.uncarried_of_idle hn q
    · rw [he]
      exact h.classed q
  | @port p acc tk job x hn hw =>
    obtain ⟨g, hg, hs⟩ := State.startPort_granted (s := { s with pointer := x }) hw
    have he := State.startPort_engines (s := { s with pointer := x }) hw
    have hself : (({ s with pointer := x }.startPort p).engines.get p).estate
        = .inMemory acc tk job .granted := by
      rw [he, State.setEState_engines, Both.get_set_self]
    have hother : ∀ q, q ≠ p →
        ({ s with pointer := x }.startPort p).engines.get q = s.engines.get q := by
      intro q hq
      rw [he, State.setEState_engines, Both.get_set_ne _ _ hq]
    refine ⟨fun q acc' tk' job' hc => ?_, fun g' q hg' hq => ?_, fun q acc' job' c hq => ?_⟩
    · by_cases hqp : q = p
      · subst hqp
        obtain ⟨-, -, rfl, -⟩ : acc = acc' ∧ tk = tk' ∧ job = job' ∧ ClaimState.granted = .granted := by
          simpa using hself.symm.trans hc
        exact ⟨g, hg, hs⟩
      · unfold State.Carries at hc
        rw [hother q hqp] at hc
        exact absurd hc (h.uncarried_of_idle hn q _ _ _)
    · obtain rfl : g = g' := Option.some.inj (hg.symm.trans hg')
      obtain rfl : p = q := Option.some.inj ((Op.serves_port hs).symm.trans hq)
      exact ⟨acc, tk, job, hself, hs⟩
    · by_cases hqp : q = p
      · subst hqp
        obtain ⟨rfl, rfl, rfl, -⟩ : acc = acc' ∧ tk = none ∧ job = job' ∧ ClaimState.granted = c := by
          simpa using hself.symm.trans hq
        exact h.classed q acc job .waiting hw
      · rw [hother q hqp] at hq
        exact h.classed q acc' job' c hq

theorem State.raise_granted (s : State) (r : Report) : (s.raise r).granted = s.granted := by
  rw [State.raise_work]

/-- The shared operations keep CLAIM and GRANTED in agreement. -/
theorem kept_claims : Kept State.ClaimsAgree where
  free _ h := h.same rfl rfl
  raise r h := h.same (State.raise_engines _ r) (State.raise_granted _ r)
  choose h := by
    rw [State.chooseNotice_frame]
    exact h.same rfl rfl
  grants hg h := h.grants hg
  pins _ _ h := h.same rfl rfl
  drop he h :=
    h.setEState (by rw [he]; exact EState.held_uncarried _) EState.idle_uncarried
      EState.idle_classed
  taking {s p} acc he h := by
    have hx := State.taking_takes s p acc
    refine h.port p (s.taking_granted p acc) (fun q hq => (hx.other hq).1) ?_ hx.estate.1
      hx.estate.2
    rw [he]
    exact EState.idle_uncarried
  hold hx h := by
    obtain ⟨hold, hidle, hother⟩ := State.holdExpiry_engines hx
    refine h.port _ ?_ hother hold ?_ ?_
    · rw [State.holdExpiry_work hx]
    · rw [hidle]
      exact EState.idle_uncarried
    · rw [hidle]
      exact EState.idle_classed
  session hx h := by
    have hg := congrArg State.granted (State.sessionExpiry_work hx)
    exact h.reissue (State.sessionExpiry_estate hx) (by rw [hg]) (by rw [hg])

end Sys2Proof.Machine
end

section
/-! PROOFS. Every command keeps CLAIM and GRANTED in agreement, with no claim waiting in LOADING (R96,
R98, R102, R164). -/

namespace Sys2Proof.Machine

/-- Two properties that the shared operations keep are kept together. -/
theorem Kept.and {P Q : State → Prop} (K : Kept P) (L : Kept Q) : Kept fun s => P s ∧ Q s where
  free n h := ⟨K.free n h.1, L.free n h.2⟩
  raise r h := ⟨K.raise r h.1, L.raise r h.2⟩
  choose h := ⟨K.choose h.1, L.choose h.2⟩
  grants hg h := ⟨K.grants hg h.1, L.grants hg h.2⟩
  pins p x h := ⟨K.pins p x h.1, L.pins p x h.2⟩
  drop he h := ⟨K.drop he h.1, L.drop he h.2⟩
  taking acc he h := ⟨K.taking acc he h.1, L.taking acc he h.2⟩
  hold hx h := ⟨K.hold hx h.1, L.hold hx h.2⟩
  session hx h := ⟨K.session hx h.1, L.session hx h.2⟩

/-! ## No claim waits in LOADING -/

theorem Engine.waiting_eq_of_estate {e e' : Engine} (h : e'.estate = e.estate) :
    e'.waiting = e.waiting := by
  simp only [Engine.waiting, h]

theorem Engine.not_waiting_of_idle {e : Engine} (h : e.estate = .idle) : e.waiting = false := by
  simp only [Engine.waiting, h]

theorem Engine.not_waiting_of_held {e : Engine} {acc : Access} (h : e.estate = .held acc) :
    e.waiting = false := by
  simp only [Engine.waiting, h]

theorem State.isLoading_of_part {s t : State} (h : t.part = s.part) :
    t.isLoading = s.isLoading := by
  simp only [State.isLoading, h]

/-- The port's engine does not wait, and the other's is as it was. -/
theorem State.NoPortWaits.port {s t : State} (h : s.NoPortWaits) (p : Port)
    (hl : t.part = s.part) (hother : ∀ q, q ≠ p → t.engines.get q = s.engines.get q)
    (hp : s.isLoading = true → (t.engines.get p).waiting = false) : t.NoPortWaits := by
  intro hload q
  rw [State.isLoading_of_part hl] at hload
  by_cases hq : q = p
  · exact hq ▸ hp hload
  · rw [hother q hq]
    exact h hload q

theorem State.NoPortWaits.same {s t : State} (h : s.NoPortWaits) (hl : t.part = s.part)
    (he : ∀ q, (t.engines.get q).estate = (s.engines.get q).estate) : t.NoPortWaits := by
  intro hload q
  rw [State.isLoading_of_part hl] at hload
  rw [Engine.waiting_eq_of_estate (he q)]
  exact h hload q

theorem State.NoPortWaits.of_not_loading {s : State} (h : s.isLoading = false) : s.NoPortWaits := by
  intro hl
  rw [h] at hl
  cases hl

/-- An access taken in LOADING makes no claim (R145). -/
theorem State.Takes.not_waiting {s : State} {p : Port} {acc : Access} {x : State × List Report}
    (hx : s.Takes p acc x) (hl : s.isLoading = true) : (x.1.engines.get p).waiting = false := by
  have hactive : ∀ {m}, s.part ≠ .active m := by
    intro m hm
    rw [State.isLoading_of_active hm] at hl
    cases hl
  cases hx with
  | ends => exact Engine.not_waiting_of_idle (State.endAccess_engine _ _ _)
  | holds =>
    refine Engine.not_waiting_of_held (acc := acc) ?_
    rw [State.setEState_engines, Both.get_set_self]
  | single hn =>
    rw [hn] at hl
    cases hl
  | watched hm | staged hm | opens hm | serves hm | takes hm => exact absurd hm hactive

theorem State.raise_part (s : State) (r : Report) : (s.raise r).part = s.part := by
  rw [State.raise_work]

theorem State.taking_part (s : State) (p : Port) (acc : Access) :
    (s.taking p acc).1.part = s.part := by
  rw [State.taking_work]

/-- The shared operations make no claim wait in LOADING. -/
theorem kept_quiet : Kept State.NoPortWaits where
  free _ h := h
  raise r h := h.same (State.raise_part _ r) fun q => by rw [State.raise_engines]
  choose h := by
    rw [State.chooseNotice_frame]
    exact h
  grants {s t} hg h := by
    have hp : t.part = s.part := by rw [hg.work]
    obtain he | ⟨p, acc, tk, job, -, he⟩ := hg.engines
    · exact h.same hp fun q => by rw [he]
    · refine h.port p hp (fun q hq => ?_) fun _ => ?_
      · rw [he, State.setEState_engines, Both.get_set_ne _ _ hq]
      · rw [he, State.setEState_engines, Both.get_set_self]
        rfl
  pins _ _ h := h
  drop {s p _} _ h := by
    refine h.port p rfl (fun q hq => Both.get_set_ne _ _ hq) fun _ => ?_
    rw [State.setEState_engines, Both.get_set_self]
    rfl
  taking {s p} acc _ h := by
    have hx := State.taking_takes s p acc
    exact h.port p (s.taking_part p acc) (fun q hq => (hx.other hq).1) hx.not_waiting
  hold hx h := by
    obtain ⟨-, hidle, hother⟩ := State.holdExpiry_engines hx
    exact h.port _ (by rw [State.holdExpiry_work hx]) hother
      fun _ => Engine.not_waiting_of_idle hidle
  session hx h := h.same (by rw [State.sessionExpiry_work hx])
    (State.sessionExpiry_estate hx)

/-! ## The claims in order -/

/-- CLAIM and GRANTED agree, and no claim waits in LOADING. -/
structure State.InOrder (s : State) : Prop where
  agree : s.ClaimsAgree
  quiet : s.NoPortWaits

theorem kept_inOrder : Kept State.InOrder := by
  have h := Kept.and kept_claims kept_quiet
  have heq : (fun s : State => s.ClaimsAgree ∧ s.NoPortWaits) = State.InOrder :=
    funext fun s => propext ⟨fun h => ⟨h.1, h.2⟩, fun h => ⟨h.1, h.2⟩⟩
  rwa [heq] at h

theorem State.InOrder.same {s t : State} (h : s.InOrder) (he : t.engines = s.engines)
    (hg : t.granted = s.granted) (hp : t.part = s.part) : t.InOrder :=
  ⟨h.agree.same he hg, h.quiet.same hp fun q => by rw [he]⟩

/-- The access of a port has ended: its engine is IDLE, and the other's is as it was. -/
structure State.EndsAt (s : State) (p : Port) (t : State) : Prop where
  idle : (t.engines.get p).estate = .idle
  other : ∀ q, q ≠ p → t.engines.get q = s.engines.get q
  granted : t.granted = s.granted
  part : t.part = s.part

theorem State.EndsAt.of_end {s v : State} {p : Port} (o : PortOut)
    (hother : ∀ q, q ≠ p → v.engines.get q = s.engines.get q) (hg : v.granted = s.granted)
    (hp : v.part = s.part) : s.EndsAt p (v.endAccess p o) where
  idle := v.endAccess_engine p o
  other q hq := (v.endAccess_other p o hq).trans (hother q hq)
  granted := hg
  part := hp

theorem State.EndsAt.raise {s t : State} {p : Port} (h : s.EndsAt p t) (r : Report) :
    s.EndsAt p (t.raise r) where
  idle := by rw [State.raise_engines, h.idle]
  other q hq := by rw [State.raise_engines, h.other q hq]
  granted := (t.raise_granted r).trans h.granted
  part := (t.raise_part r).trans h.part

theorem State.EndsAt.trans_frame {s v t : State} {p : Port} (h : v.EndsAt p t)
    (he : v.engines = s.engines) (hg : v.granted = s.granted) (hp : v.part = s.part) :
    s.EndsAt p t :=
  ⟨h.idle, fun q hq => by rw [h.other q hq, he], h.granted.trans hg, h.part.trans hp⟩

/-- Another port's engine has no operation carried once that of this port has ended. -/
theorem State.ClaimsAgree.after {s t : State} (h : s.ClaimsAgree) {g : Granted}
    (hs : s.granted = some g) {p : Port} (hport : g.op.port = some p) (ht : t.granted = none)
    (hother : ∀ q, q ≠ p → t.engines.get q = s.engines.get q)
    (hun : (t.engines.get p).estate.Uncarried) (hcl : (t.engines.get p).estate.Classed) :
    t.ClaimsAgree := by
  refine State.ClaimsAgree.of_uncarried (fun q => ?_) (fun q => ?_) fun g' hg' => ?_
  · by_cases hq : q = p
    · exact hq ▸ hun
    · rw [hother q hq]
      refine h.uncarried hs ?_
      rw [hport]
      exact fun heq => hq (Option.some.inj heq).symm
  · by_cases hq : q = p
    · exact hq ▸ hcl
    · rw [hother q hq]
      exact h.classed q
  · rw [ht] at hg'
    cases hg'

/-- A port's operation has ended with its access: the claims are in order. -/
theorem State.InOrder.ended {s v t : State} (h : s.InOrder) {g : Granted}
    (hs : s.granted = some g) {p : Port} (hport : g.op.port = some p) (he : v.engines = s.engines)
    (hg : v.granted = none) (hp : v.part = s.part) (hend : v.EndsAt p t) : t.InOrder where
  agree := by
    refine h.agree.after hs hport (hend.granted.trans hg)
      (fun q hq => by rw [hend.other q hq, he]) ?_ ?_
    · rw [hend.idle]
      exact EState.idle_uncarried
    · rw [hend.idle]
      exact EState.idle_classed
  quiet := by
    refine h.quiet.port p (hend.part.trans hp) (fun q hq => by rw [hend.other q hq, he]) fun _ => ?_
    exact Engine.not_waiting_of_idle hend.idle

/-- An operation of the loader or the Notice Unit has ended. -/
theorem State.InOrder.endedOther {s t : State} (h : s.InOrder) {g : Granted}
    (hs : s.granted = some g) (hport : g.op.port = none) (he : t.engines = s.engines)
    (hg : t.granted = none) (hl : t.isLoading = true → s.isLoading = true) : t.InOrder where
  agree := by
    refine State.ClaimsAgree.of_uncarried (fun q => ?_) (fun q => ?_) fun g' hg' => ?_
    · rw [he]
      refine h.agree.uncarried hs ?_
      rw [hport]
      exact nofun
    · rw [he]
      exact h.agree.classed q
    · rw [hg] at hg'
      cases hg'
  quiet hload q := by
    rw [he]
    exact h.quiet (hl hload) q

/-! ## A load at the ports -/

/-- What a load does at a port leaves the other's engine. -/
theorem State.emptyForLoad_other (s : State) (p : Port) {q : Port} (hq : q ≠ p) :
    (s.emptyForLoad p).engines.get q = s.engines.get q := by
  have hset : ∀ (v : State) (ss : List Session) (cs : List Capture),
      ((v.setSessions p ss).setCaptures p cs).engines.get q = v.engines.get q := by
    intro v ss cs
    rw [State.setCaptures_eq, State.setSessions_eq, State.withPort_withPort,
      State.withPort_engines, Both.get_set_ne _ _ hq]
  unfold State.emptyForLoad
  dsimp only
  split
  · exact hset _ _ _
  · rw [hset]
    unfold State.withdraw
    split
    · rw [State.setEState_engines, Both.get_set_ne _ _ hq, State.unwatch_engines]
    · rfl

/-- What a load leaves of a port's engine state: a claim that waits becomes a held access (R10, R102). -/
theorem State.emptyForLoad_estate (s : State) (p : Port) :
    ((s.engines.get p).waiting = false
        ∧ ((s.emptyForLoad p).engines.get p).estate = (s.engines.get p).estate)
      ∨ ∃ acc t job, (s.engines.get p).estate = .inMemory acc t job .waiting
          ∧ ((s.emptyForLoad p).engines.get p).estate = .held acc := by
  have hset : ∀ (v : State) (ss : List Session) (cs : List Capture),
      (((v.setSessions p ss).setCaptures p cs).engines.get p).estate = (v.engines.get p).estate := by
    intro v ss cs
    rw [State.setCaptures_eq, State.setSessions_eq, State.withPort_withPort,
      State.withPort_engines, Both.get_set_self, State.withPort_engines, Both.get_set_self]
  unfold State.emptyForLoad
  dsimp only
  split
  next hc =>
    refine .inl ⟨?_, hset _ _ _⟩
    unfold Engine.carried at hc
    split at hc
    next he => simp only [Engine.waiting, he]
    · cases hc
  · rw [hset]
    unfold State.withdraw
    split
    next acc t job he =>
      refine .inr ⟨acc, t, job, he, ?_⟩
      rw [State.setEState_engines, Both.get_set_self]
    next hn =>
      refine .inl ⟨?_, rfl⟩
      unfold Engine.waiting
      split
      next he => exact absurd he (hn _ _ _)
      · rfl

theorem State.ClaimsAgree.emptyForLoad {s : State} (h : s.ClaimsAgree) (p : Port) :
    (s.emptyForLoad p).ClaimsAgree := by
  have hg : (s.emptyForLoad p).granted = s.granted := by rw [s.emptyForLoad_work p]
  obtain ⟨-, he⟩ | ⟨acc, t, job, hw, he⟩ := s.emptyForLoad_estate p
  · refine h.reissue (fun q => ?_) (by rw [hg]) (by rw [hg])
    by_cases hq : q = p
    · exact hq ▸ he
    · rw [s.emptyForLoad_other p hq]
  · refine h.port p hg (fun q hq => s.emptyForLoad_other p hq) ?_ ?_ ?_
    · rw [hw]
      exact EState.waiting_uncarried _ _ _
    · rw [he]
      exact EState.held_uncarried _
    · rw [he]
      exact EState.held_classed _

theorem State.emptyForLoad_not_waiting (s : State) (p : Port) :
    ((s.emptyForLoad p).engines.get p).waiting = false := by
  obtain ⟨hw, he⟩ | ⟨acc, t, job, -, he⟩ := s.emptyForLoad_estate p
  · rw [Engine.waiting_eq_of_estate he, hw]
  · exact Engine.not_waiting_of_held he

/-- Once a load has emptied a port whose other engine does not wait, no claim waits. -/
theorem State.InOrder.clearIfLoading {s : State} {p : Port} (ha : s.ClaimsAgree)
    (hq : s.isLoading = true → ∀ q, q ≠ p → (s.engines.get q).waiting = false) :
    (s.clearIfLoading p).InOrder := by
  unfold State.clearIfLoading
  split
  next hl =>
    refine Kept.raiseAll kept_inOrder _ ⟨ha.emptyForLoad p, fun _ q => ?_⟩
    by_cases hqp : q = p
    · exact hqp ▸ s.emptyForLoad_not_waiting p
    · rw [s.emptyForLoad_other p hqp]
      exact hq hl q hqp
  next hl => exact ⟨ha, .of_not_loading (by simpa using hl)⟩

theorem State.InOrder.beginLoad {s : State} (h : s.InOrder) (p : Port) (n : Nat) (gf : Bool)
    (entry : EntryOrder) : (s.beginLoad p n gf entry).InOrder := by
  have hevents := Kept.grantIf kept_inOrder gf (Kept.takeEvents kept_inOrder entry.events h)
  have henter : (((s.takeEvents entry.events).1.grantIf gf).enterLoading p n).ClaimsAgree :=
    hevents.agree.same rfl rfl
  refine Kept.raiseAll kept_inOrder _ ⟨(henter.emptyForLoad .a).emptyForLoad .b, fun _ q => ?_⟩
  cases q with
  | a =>
    rw [State.emptyForLoad_other (q := .a) _ .b nofun]
    exact State.emptyForLoad_not_waiting _ .a
  | b => exact State.emptyForLoad_not_waiting _ .b

theorem State.InOrder.endLoad {s : State} (h : s.InOrder) (ld : Load) (order : EndOrder) :
    (s.endLoad ld order).InOrder := by
  have hw := s.releaseDeferred_work
  exact Kept.endLoad kept_inOrder ld order
    (h.same s.releaseDeferred_engines (by rw [hw]) (by rw [hw]))

/-- A failed load returns to FROM, which is not LOADING (R158). -/
theorem State.InOrder.endFailed {s : State} (h : s.InOrder) (ld : Load) (order : EndOrder) :
    (s.endFailed ld order).InOrder := by
  have hl : { s with part := ld.fromState }.isLoading = false := by
    simp only [State.isLoading, Load.fromState]
    cases ld.from? <;> rfl
  exact State.InOrder.endLoad (s := { s with part := ld.fromState })
    ⟨h.agree.same rfl rfl, .of_not_loading hl⟩ ld order

theorem State.InOrder.failLoad {s : State} {ld : Load} (h : s.InOrder) (r : LoadResult)
    (hl : s.part = .loading ld) : (s.failLoad ld r).InOrder := by
  refine ⟨h.agree.same rfl rfl, fun _ => ?_⟩
  exact h.quiet (by simp only [State.isLoading, hl])

/-! ## The expiries -/

theorem State.expireSingle_endsAt {s : State} {p : Port} {acc : Access} {t : Option Taken}
    {purpose : Purpose} (hc : s.Carries p acc t (.single purpose)) :
    s.EndsAt p (s.expireSingle p) := by
  have hw := s.unwatch_work (.single purpose)
  have hend : s.EndsAt p ((s.unwatch (.single purpose)).endFault p acc) :=
    .of_end _ (fun q _ => by rw [State.unwatch_engines]) (by rw [hw]) (by rw [hw])
  simp only [State.expireSingle, hc.inFlight]
  cases t with
  | none => exact hend
  | some t => exact hend.raise _

theorem State.freeSession_endsAt (s : State) (p : Port) (w r : Nat) (o : PortOut) :
    s.EndsAt p ((s.freeSession p w r).endAccess p o) :=
  .of_end o (fun _ hq => Both.get_set_ne _ _ hq) rfl rfl

theorem State.freeCapture_endsAt (s : State) (p : Port) (w r : Nat) (o : PortOut) :
    s.EndsAt p ((s.freeCapture p w r).endAccess p o) :=
  .of_end o (fun _ hq => Both.get_set_ne _ _ hq) rfl rfl

theorem State.EndsAt.free {s t : State} {p : Port} (h : s.EndsAt p t) (n : Nat) :
    s.EndsAt p { t with freeCount := n } := ⟨h.idle, h.other, h.granted, h.part⟩

theorem State.expireStampRead_endsAt {s : State} {p : Port} {acc : Access} {t : Taken}
    (hc : s.Carries p acc (some t) .stampRead) : s.EndsAt p (s.expireStampRead p) := by
  simp only [State.expireStampRead, hc.flight]
  exact ((s.freeSession_endsAt p _ _ _).raise _).free _

theorem State.expireCapture_endsAt {s : State} {p : Port} {acc : Access} {t : Taken} (g : Granted)
    (hc : s.Carries p acc (some t) .capture) : s.EndsAt p (s.expireCapture p g) := by
  simp only [State.expireCapture, hc.flight]
  exact (s.freeCapture_endsAt p _ _ _).raise _

theorem State.expireReading_endsAt {s : State} {p : Port} {acc : Access} {t : Taken}
    (w : WordAccess) (hc : s.Carries p acc (some t) .commit) : s.EndsAt p (s.expireReading p w) := by
  simp only [State.expireReading, hc.flight]
  exact (s.freeSession_endsAt p _ _ _).raise _

theorem State.enterTorn_part (s : State) (base : WAddr) (w : Nat) :
    (s.enterTorn base w).part = s.part ∧ (s.enterTorn base w).granted = s.granted := by
  unfold State.enterTorn
  dsimp only
  repeat' split
  · exact ⟨rfl, rfl⟩
  · exact ⟨rfl, rfl⟩
  · exact ⟨rfl, rfl⟩
  · exact ⟨State.raise_part _ _, State.raise_granted _ _⟩

theorem State.expireWriting_endsAt {s : State} {p : Port} {acc : Access} {t : Taken} (g : Granted)
    (hc : s.Carries p acc (some t) .commit) : s.EndsAt p (s.expireWriting p g) := by
  obtain ⟨hp, hg⟩ := s.enterTorn_part t.recordOf.2.2.2 t.recordOf.1
  simp only [State.expireWriting, hc.flight]
  exact ((State.freeSession_endsAt _ p _ _ _).trans_frame (s.enterTorn_engines _ _) hg hp).raise _

/-- The operation carried for a port serves its claim: the access, and its class but for a single
operation (R96, R98). -/
theorem State.ClaimsAgree.carries {s : State} (h : s.ClaimsAgree) {g : Granted} {p : Port}
    (hg : s.granted = some g) (hport : g.op.port = some p) :
    ∃ acc t job, s.Carries p acc t job ∧ g.op.serves p job
      ∧ (t = none → ∃ purpose, job = .single purpose) := by
  obtain ⟨acc, t, job, hc, hs⟩ := h.2.1 g p hg hport
  exact ⟨acc, t, job, hc, hs, fun ht => h.2.2 p acc job .granted (ht ▸ hc)⟩

/-- The job of the operation that is claimed for a session or a capture. -/
def Op.recordJob : Op → Option Job
  | .stampRead _ => some .stampRead
  | .capture _ => some .capture
  | .commit _ _ => some .commit
  | _ => none

theorem Op.serves_job {op : Op} {p : Port} {j job : Job} (hop : op.recordJob = some job)
    (h : op.serves p j) : j = job := by
  unfold Op.serves at h
  split at h
  · cases hop
  · exact Option.some.inj hop
  · exact Option.some.inj hop
  · exact Option.some.inj hop
  · exact h.elim

/-- The operation carried is of a kind that a class is needed for. -/
theorem State.ClaimsAgree.carries_taken {s : State} (h : s.ClaimsAgree) {g : Granted} {p : Port}
    {job : Job} (hg : s.granted = some g) (hport : g.op.port = some p)
    (hjob : g.op.recordJob = some job) (hn : ∀ purpose, job ≠ .single purpose) :
    ∃ acc t, s.Carries p acc (some t) job := by
  obtain ⟨acc, t, j, hc, hs, hclass⟩ := h.carries hg hport
  obtain rfl := Op.serves_job hjob hs
  cases t with
  | none =>
    obtain ⟨purpose, rfl⟩ := hclass rfl
    exact absurd rfl (hn purpose)
  | some t => exact ⟨acc, t, hc⟩

/-- The expiry of a port's operation ends its access; of another operation, no engine changes. -/
theorem State.InOrder.expire {s : State} (h : s.InOrder) {g : Granted} (hg : s.granted = some g)
    (w : WordAccess) (order : EndOrder) : ((s.expired w).expire g w order).InOrder := by
  have he := s.expired_engines w
  have hp : (s.expired w).part = s.part := by rw [State.expired, State.landExpired_frame]
  have hcar : ∀ {p acc t job}, s.Carries p acc t job → (s.expired w).Carries p acc t job := by
    intro p acc t job hc
    unfold State.Carries
    rw [he]
    exact hc
  have hends : ∀ {p t}, g.op.port = some p → (s.expired w).EndsAt p t → t.InOrder :=
    fun hport hend => h.ended hg hport he rfl hp hend
  have hnotice : ∀ p entry handles, g.op.port = none →
      ((s.expired w).expireNotice p entry handles).InOrder := by
    intro p entry handles hport
    have hw := (s.expired w).expireNotice_work p entry handles
    refine h.endedOther hg hport (((s.expired w).expireNotice_engines p entry handles).trans he)
      (by rw [hw]; rfl) fun hl => ?_
    rwa [State.isLoading_of_part (s := s) (by rw [hw]; exact hp)] at hl
  have hloader : g.op.port = none → ((s.expired w).expireLoader order).InOrder := by
    intro hport
    have hexp : (s.expired w).InOrder := h.endedOther hg hport he rfl fun hl => by
      rwa [State.isLoading_of_part hp] at hl
    have hgrant := Kept.grantIf kept_inOrder order.grantAtEnd hexp
    have hpart : ((s.expired w).grantIf order.grantAtEnd).part = (s.expired w).part := by
      rw [State.grantIf_work]
    unfold State.expireLoader
    dsimp only
    split
    next hl =>
      rw [← hpart] at hl
      split
      · split
        · exact hgrant.endFailed _ order
        · exact hgrant.failLoad _ hl
      · exact hgrant.failLoad _ hl
    · exact hexp
  unfold State.expire
  split
  next p hop =>
    have hport : g.op.port = some p := by rw [hop]; rfl
    obtain ⟨acc, t, job, hc, hs, -⟩ := h.agree.carries hg hport
    obtain ⟨purpose, rfl⟩ : ∃ purpose, job = .single purpose := by
      rw [hop] at hs
      cases job with
      | single purpose => exact ⟨purpose, rfl⟩
      | stampRead | commit | capture => exact hs.elim
    exact Kept.chooseAfter kept_inOrder _ (hends hport (State.expireSingle_endsAt (hcar hc)))
  next p hop =>
    have hport : g.op.port = some p := by rw [hop]; rfl
    obtain ⟨acc, t, hc⟩ := h.agree.carries_taken (job := .stampRead) hg hport (by rw [hop]; rfl) nofun
    exact Kept.chooseAfter kept_inOrder _ (hends hport (State.expireStampRead_endsAt (hcar hc)))
  next p hop =>
    have hport : g.op.port = some p := by rw [hop]; rfl
    obtain ⟨acc, t, hc⟩ := h.agree.carries_taken (job := .capture) hg hport (by rw [hop]; rfl) nofun
    exact Kept.chooseAfter kept_inOrder _ (hends hport (State.expireCapture_endsAt g (hcar hc)))
  next p hop =>
    have hport : g.op.port = some p := by rw [hop]; rfl
    obtain ⟨acc, t, hc⟩ := h.agree.carries_taken (job := .commit) hg hport (by rw [hop]; rfl) nofun
    exact Kept.chooseAfter kept_inOrder _ (hends hport (State.expireReading_endsAt w (hcar hc)))
  next p hop =>
    have hport : g.op.port = some p := by rw [hop]; rfl
    obtain ⟨acc, t, hc⟩ := h.agree.carries_taken (job := .commit) hg hport (by rw [hop]; rfl) nofun
    exact Kept.chooseAfter kept_inOrder _ (hends hport (State.expireWriting_endsAt g (hcar hc)))
  next hop => exact Kept.chooseAfter kept_inOrder _ (hnotice _ _ _ (by rw [hop]; rfl))
  next hop => exact Kept.chooseAfter kept_inOrder _ (hnotice _ _ _ (by rw [hop]; rfl))
  next hop => exact Kept.chooseAfter kept_inOrder _ (hnotice _ _ _ (by rw [hop]; rfl))
  next hop => exact Kept.choose kept_inOrder (hloader (by rw [hop]; rfl))
  next hop => exact Kept.choose kept_inOrder (hloader (by rw [hop]; rfl))
  next hop => exact Kept.choose kept_inOrder (hloader (by rw [hop]; rfl))

/-! ## Every command -/

/-- A word access of the same operation follows: the claims stand. -/
theorem State.InOrder.goesOn {s t : State} (h : s.InOrder) {g g' : Granted}
    (hs : s.granted = some g) (ht : t.granted = some g') (he : t.engines = s.engines)
    (hp : t.part = s.part) (hserves : g'.op.serves = g.op.serves) (hport : g'.op.port = g.op.port) :
    t.InOrder where
  agree := by
    refine h.agree.reissue (fun q => by rw [he]) ?_ ?_ <;> rw [hs, ht, Option.map_some, Option.map_some]
    · rw [hserves]
    · rw [hport]
  quiet := h.quiet.same hp fun q => by rw [he]

theorem Op.commit_serves (p : Port) (b b' : Bool) :
    (Op.commit p b).serves = (Op.commit p b').serves := by
  funext q job
  cases job <;> rfl

theorem State.answered_granted (s : State) (w : WordAccess) (ans : Answer) :
    (s.answered w ans).granted = none := rfl

theorem State.expired_part (s : State) (w : WordAccess) : (s.expired w).part = s.part := by
  rw [State.expired, State.landExpired_frame]

theorem State.endReady_endsAt (s : State) (p : Port) (acc : Access) (w : Word) :
    s.EndsAt p (s.endReady p acc w) :=
  .of_end _ (fun _ _ => rfl) rfl rfl

theorem State.committed_endsAt (s : State) (p : Port) (acc : Access) (ses : Session) :
    s.EndsAt p (((s.healTorn ses.base ses.window).freeSession p ses.window ses.record).endReady p
      acc 0) :=
  .of_end _ (fun _ hq => Both.get_set_ne _ _ hq) rfl rfl

theorem State.takeCount_endsAt (s : State) (p q : Port) (acc : Access) (n : Count) :
    s.EndsAt p ((s.takeCount q n).endReady p acc 0) :=
  .of_end _ (fun _ _ => rfl) rfl rfl

theorem State.serve_endsAt {s v : State} (p : Port) (acc : Access) (t : Taken) (c : Capture)
    (l : Live) (o : Nat) (he : v.engines = s.engines) (hg : v.granted = s.granted)
    (hp : v.part = s.part) : s.EndsAt p (v.serve p acc t c l o) := by
  rw [State.serve_eq]
  refine ⟨?_, fun q hq => ?_, hg, hp⟩
  · rw [State.withPort_engines, Both.get_set_self]
  · rw [State.withPort_engines, Both.get_set_ne _ _ hq, he]

theorem State.fillCapture_endsAt (s : State) (p : Port) (acc : Access) (t : Taken) (c : Capture)
    (words : List Word) : s.EndsAt p (s.fillCapture p acc t c words) := by
  unfold State.fillCapture
  dsimp only
  split
  · exact State.serve_endsAt p acc t _ _ _ (s.raise_engines _) (s.raise_granted _) (s.raise_part _)
  · exact State.serve_endsAt p acc t _ _ _ rfl rfl rfl

/-- A write staged leaves its engine IDLE or with a claim that waits, and the other's as it was. -/
theorem State.stageWrite_claims (s : State) (p : Port) (acc : Access) (t : Taken) (ses : Session)
    (o : Nat) :
    ((s.stageWrite p acc t ses o).engines.get p).estate.Uncarried
      ∧ ((s.stageWrite p acc t ses o).engines.get p).estate.Classed
      ∧ ∀ q, q ≠ p → (s.stageWrite p acc t ses o).engines.get q = s.engines.get q := by
  rw [State.stageWrite_eq]
  split <;> rw [State.withPort_engines, Both.get_set_self]
  · exact ⟨EState.waiting_uncarried _ _ _, EState.classed_of_taken _ _ _ _,
      fun q hq => Both.get_set_ne _ _ hq⟩
  · exact ⟨EState.idle_uncarried, EState.idle_classed, fun q hq => Both.get_set_ne _ _ hq⟩

theorem State.isLoading_of_loading {s : State} {ld : Load} (hl : s.part = .loading ld) :
    s.isLoading = true := by
  simp only [State.isLoading, hl]

theorem State.afterReset_inOrder (s : State) : s.afterReset.InOrder := by
  have he : ∀ p, (s.afterReset.engines.get p).estate = .idle :=
    fun p => congrArg Engine.estate (Both.get_same Engine.empty p)
  refine ⟨State.ClaimsAgree.of_uncarried (fun q => ?_) (fun q => ?_) nofun, .of_not_loading rfl⟩
  · rw [he]
    exact EState.idle_uncarried
  · rw [he]
    exact EState.idle_classed

/-- R96, R98, R102, R164: every command keeps the claims in order. -/
theorem Effect.inOrder {s t : State} {c : Instr} (heff : Effect s c t) (hh : s.HeldInReset)
    (h : s.InOrder) : t.InOrder := by
  have hans : ∀ w ans, (s.answered w ans).part = s.part := fun w ans => s.answered_part w ans
  have hload : ∀ w ans, (s.answered w ans).isLoading = true → s.isLoading = true := by
    intro w ans hl
    rwa [State.isLoading_of_part (hans w ans)] at hl
  cases heff with
  | stays => exact h
  | reset => exact s.afterReset_inOrder
  | @release _ _ _ hr =>
    refine Kept.arriveBoth kept_inOrder (fun p => ?_) (h.same (t := s.released _) rfl rfl rfl)
    have he := (hh.emptied hr).engine p
    exact congrArg Engine.estate he
  | strobe | tick | stray => exact h.same rfl rfl rfl
  | ackReleased =>
    cases hg : s.granted with
    | none => exact h.same rfl hg.symm rfl
    | some g => exact h.goesOn hg (Option.map_some ..) rfl rfl rfl rfl
  | access => exact Kept.present kept_inOrder _ _ h
  | grant => exact Kept.choose kept_inOrder (Kept.arbitrate kept_inOrder h)
  | @word ans g w w' ws hbus =>
    exact h.goesOn hbus.1 rfl (s.answered_engines w ans) (hans w ans) rfl rfl
  | @commitWord _ ans g w rest p acc t ses _ hbus hop =>
    cases rest with
    | nil =>
      exact h.goesOn hbus.1 rfl (s.answered_engines w ans) (hans w ans)
        (by rw [hop]; exact Op.commit_serves p _ _) (by rw [hop]; rfl)
    | cons =>
      exact h.goesOn hbus.1 rfl (s.answered_engines w ans) (hans w ans) (by rw [hop]) (by rw [hop])
  | @single ans g w p acc _ _ hbus hop _ _ word =>
    exact h.ended hbus.1 (by rw [hop]; rfl) (s.answered_engines w ans) rfl (hans w ans)
      (State.endReady_endsAt _ p acc word)
  | @count ans g w p q acc _ n hbus hop =>
    exact h.ended hbus.1 (by rw [hop]; rfl) (s.answered_engines w ans) rfl (hans w ans)
      (State.takeCount_endsAt _ p q acc n)
  | @request ans _ _ g w p acc _ _ hbus hop =>
    have hend : ((s.answered w ans).endReady p acc 0).InOrder :=
      h.ended hbus.1 (by rw [hop]; rfl) (s.answered_engines w ans) rfl (hans w ans)
        (State.endReady_endsAt _ p acc 0)
    split
    · exact hend
    · exact Kept.choose kept_inOrder
        (State.InOrder.beginLoad (Kept.grantIf kept_inOrder _ hend) _ _ _ _)
  | @stampRead ans g w p acc t ses hbus hop _ gen =>
    obtain ⟨hun, hcl, hother⟩ := (s.answered w ans).stageWrite_claims p acc t
      { ses with baseGen := some gen, opened := some s.timebase } t.recordOf.2.2.1
    have hwork := (s.answered w ans).stageWrite_work p acc t
      { ses with baseGen := some gen, opened := some s.timebase } t.recordOf.2.2.1
    have hsame : ∀ q, q ≠ p → _ := fun q hq =>
      (hother q hq).trans (congrArg (fun e : Both Engine => e.get q) (s.answered_engines w ans))
    refine Kept.choose kept_inOrder (State.InOrder.clearIfLoading
      (h.agree.after hbus.1 (by rw [hop]; rfl) (by rw [hwork]; rfl) hsame hun hcl)
      fun hl q hq => ?_)
    rw [hsame q hq]
    refine h.quiet ?_ q
    rwa [State.isLoading_of_part (s := s) (by rw [hwork]; exact hans w ans)] at hl
  | @stale ans g w rest p acc t ses hbus hop _ found =>
    refine Kept.chooseAfter kept_inOrder _
      (h.ended hbus.1 (by rw [hop]; rfl) (s.answered_engines w ans)
      rfl (hans w ans) ?_)
    exact ((s.answered w ans).freeSession_endsAt p ses.window ses.record _).raise _
  | @committed ans g w p acc t ses hbus hop =>
    exact h.ended hbus.1 (by rw [hop]; rfl) (s.answered_engines w ans) rfl (hans w ans)
      (State.committed_endsAt _ p acc ses)
  | @captured ans g w p acc t c hbus hop _ words =>
    have hend := h.ended hbus.1 (by rw [hop]; rfl) (s.answered_engines w ans) rfl (hans w ans)
      ((s.answered w ans).fillCapture_endsAt p acc t c words)
    exact Kept.chooseAfter kept_inOrder _
      (State.InOrder.clearIfLoading hend.agree fun hl q _ => hend.quiet hl q)
  | @entryBurst ans g w q _ hbus hop =>
    exact Kept.choose kept_inOrder
      (h.endedOther hbus.1 (by rw [hop]; rfl) (s.answered_engines w ans)
      rfl (hload w ans))
  | @fullRingBurst ans g w q _ hbus hop =>
    exact Kept.choose kept_inOrder
      (h.endedOther hbus.1 (by rw [hop]; rfl) (s.answered_engines w ans)
      rfl (hload w ans))
  | @lossReport ans g w q _ hbus hop =>
    exact Kept.choose kept_inOrder
      (h.endedOther hbus.1 (by rw [hop]; rfl) (s.answered_engines w ans)
      rfl (hload w ans))
  | @inProgress ans g w ld hbus hop hl =>
    exact h.endedOther hbus.1 (by rw [hop]; rfl) (s.answered_engines w ans) rfl
      fun _ => State.isLoading_of_loading hl
  | drained hl =>
    exact ⟨h.agree.same rfl rfl, fun _ => h.quiet (State.isLoading_of_loading hl)⟩
  | @imageRead ans g w ld hbus hop hl raw =>
    refine h.endedOther hbus.1 (by rw [hop]; rfl)
      ((State.applyVerdict_engines _ _ _).trans (s.answered_engines w ans)) ?_
      fun _ => State.isLoading_of_loading hl
    cases validate s.straps ld.reqN raw with
    | fails r => rfl
    | passes cand =>
      unfold State.applyVerdict State.claimInstall
      dsimp only
      repeat' split
      all_goals rfl
  | @header ans g w q ld cand hbus hop hl =>
    refine h.endedOther hbus.1 (by rw [hop]; rfl)
      ((State.claimAfterHeader_engines _ _ _).trans (s.answered_engines w ans)) ?_
      fun _ => State.isLoading_of_loading hl
    unfold State.claimAfterHeader
    repeat' split
    all_goals rfl
  | @done ans order g w ld cand hbus hop =>
    exact State.InOrder.endLoad (s := (s.answered w ans).install cand)
      (h.endedOther hbus.1 (by rw [hop]; rfl) (s.answered_engines w ans) rfl
        fun hl => absurd hl Bool.false_ne_true) ld order
  | @failed ans order g w ld hbus hop hl =>
    exact State.InOrder.endFailed
      (Kept.grantIf kept_inOrder _ (h.endedOther hbus.1 (by rw [hop]; rfl)
      (s.answered_engines w ans) rfl fun _ => State.isLoading_of_loading hl)) ld order
  | @failedLate order g w rest ld hbus hop hl =>
    exact State.InOrder.endFailed
      (Kept.grantIf kept_inOrder _ (h.endedOther hbus.1 (by rw [hop]; rfl)
      (s.expired_engines w) rfl fun _ => State.isLoading_of_loading hl)) ld order
  | expires hbus => exact h.expire hbus.1 _ _
  | hold hx =>
    exact Kept.choose kept_inOrder (Kept.raise kept_inOrder _ (Kept.hold kept_inOrder hx h))
  | session hx =>
    exact Kept.choose kept_inOrder (Kept.raise kept_inOrder _ (Kept.session kept_inOrder hx h))
  | @captureLimit p w k =>
    have he : ∀ q, ((s.freeCapture p w k).engines.get q).estate = (s.engines.get q).estate := by
      intro q
      rw [State.freeCapture_eq, State.withPort_engines]
      by_cases hq : q = p
      · subst hq
        rw [Both.get_set_self]
      · rw [Both.get_set_ne _ _ hq]
    exact ⟨h.agree.reissue he rfl rfl, h.quiet.same rfl he⟩

/-- Settles O56: each command's effect keeps the claims in order, and what RESET left. -/
theorem stepKeepsClaimsInAgreement : Obligations.StepKeepsClaimsInAgreement := by
  intro s t hagree hquiet hh hstep
  have hkeep : t.InOrder ∧ t.HeldInReset :=
    step_keeps (P := fun v => v.InOrder ∧ v.HeldInReset) (Q := fun v => v.InOrder ∧ v.HeldInReset)
      hstep (fun rest h => ⟨h.1.same rfl rfl rfl, h.2.pending rest⟩) id
      (fun e h => ⟨e.inOrder h.2 h.1, e.held h.2⟩) ⟨⟨hagree, hquiet⟩, hh⟩
  exact ⟨hkeep.1.agree, hkeep.1.quiet, hkeep.2⟩

end Sys2Proof.Machine
end

section
/-! PROOFS. The counts of a ring (R122, R125, R129, R132): the SHADOW slots of the unconsumed notices as
an entry is added and as a consumer count is taken. -/

namespace Sys2Proof.Machine

/-! ## Counts modulo 65536 and slots -/

/-- The entries of a ring divide the range of a count (R121). -/
theorem Capacity.entries_dvd (cap : Capacity) : cap.entries ∣ 65536 := by
  cases cap <;> decide

theorem Capacity.entries_pos (cap : Capacity) : 0 < cap.entries := by
  cases cap <;> decide

theorem Capacity.entries_lt (cap : Capacity) : cap.entries < 65536 := by
  cases cap <;> decide

/-- A count some steps on is in the slot so many steps on. -/
theorem count_add_mod {c : Nat} (hc : c ∣ 65536) (x : Count) (i : Nat) :
    (x + BitVec.ofNat 16 i).toNat % c = (x.toNat + i) % c := by
  rw [BitVec.toNat_add, BitVec.toNat_ofNat, Nat.mod_mod_of_dvd _ hc, Nat.add_mod,
    Nat.mod_mod_of_dvd _ hc, ← Nat.add_mod]

/-- A count is CONS and its distance from it. -/
theorem count_eq_add (x y : Count) : y = x + BitVec.ofNat 16 (y - x).toNat := by
  rw [BitVec.ofNat_toNat, BitVec.setWidth_eq, BitVec.add_comm, BitVec.sub_add_cancel]

theorem count_mod_eq {c : Nat} (hc : c ∣ 65536) (x y : Count) :
    y.toNat % c = (x.toNat + (y - x).toNat) % c := by
  conv_lhs => rw [count_eq_add x y]
  exact count_add_mod hc x _

/-- The distance from a count between CONS and PROD. -/
theorem count_sub_sub {x n y : Count} (h : (n - x).toNat ≤ (y - x).toNat) :
    (y - n).toNat = (y - x).toNat - (n - x).toNat := by
  bv_omega

theorem count_succ_sub {x y : Count} {c : Nat} (hc : c < 65536) (h : (y - x).toNat < c) :
    (y + 1 - x).toNat = (y - x).toNat + 1 := by
  bv_omega

/-- Fewer steps than there are slots lead to different slots. -/
theorem mod_add_ne {c a i j : Nat} (hij : i < j) (hj : j < c) : (a + i) % c ≠ (a + j) % c := by
  intro h
  have hmod : i ≡ j [MOD c] := Nat.ModEq.add_left_cancel' a h
  rw [Nat.ModEq, Nat.mod_eq_of_lt (hij.trans hj), Nat.mod_eq_of_lt hj] at hmod
  exact hij.ne hmod

/-! ## SHADOW -/

theorem clearSlots_length (c : Nat) (sh : List (Option (BitVec 2))) (x : Count) (n : Nat) :
    (clearSlots c sh x n).length = sh.length := by
  induction n generalizing sh x with
  | zero => rfl
  | succ n ih => exact (ih _ _).trans List.length_set

/-- The slots passed are emptied, and no other (R132). -/
theorem clearSlots_getElem? (c : Nat) (sh : List (Option (BitVec 2))) (x : Count) (n : Nat)
    {k : Nat} (hk : k < sh.length) :
    (clearSlots c sh x n)[k]?
      = if ∃ i < n, k = (x + BitVec.ofNat 16 i).toNat % c then some none else sh[k]? := by
  induction n generalizing sh x with
  | zero => simp [clearSlots]
  | succ n ih =>
    have hstep : ∀ i, x + 1 + BitVec.ofNat 16 i = x + BitVec.ofNat 16 (i + 1) := by
      intro i
      rw [BitVec.add_assoc, Nat.add_comm i 1, BitVec.ofNat_add]
      rfl
    have hsplit : (∃ i < n + 1, k = (x + BitVec.ofNat 16 i).toNat % c)
        ↔ k = slotOf c x ∨ ∃ i < n, k = (x + 1 + BitVec.ofNat 16 i).toNat % c := by
      simp only [hstep]
      constructor
      · rintro ⟨i, hi, hki⟩
        cases i with
        | zero => exact .inl (by simpa [slotOf] using hki)
        | succ i => exact .inr ⟨i, Nat.lt_of_succ_lt_succ hi, hki⟩
      · rintro (h | ⟨i, hi, hki⟩)
        · exact ⟨0, Nat.succ_pos n, by simpa [slotOf] using h⟩
        · exact ⟨i + 1, Nat.succ_lt_succ hi, hki⟩
    rw [clearSlots, ih _ _ (by rwa [List.length_set]), if_congr hsplit rfl rfl]
    by_cases hlater : ∃ i < n, k = (x + 1 + BitVec.ofNat 16 i).toNat % c
    · rw [if_pos hlater, if_pos (.inr hlater)]
    · rw [if_neg hlater]
      by_cases hnow : k = slotOf c x
      · rw [if_pos (.inl hnow), hnow, List.getElem?_set_self (hnow ▸ hk)]
      · rw [if_neg (fun h => h.elim hnow hlater), List.getElem?_set_ne (Ne.symm hnow)]

/-! ## R129 as a ring changes -/

/-- Rings of the same counts and SHADOW hold the same notices. -/
theorem Ring.Within.same {r r' : Ring} {c : Nat} (h : r.Within c) (hp : r'.prod = r.prod)
    (hc : r'.cons = r.cons) (hs : r'.shadow = r.shadow) : r'.Within c := by
  unfold Ring.Within at *
  rwa [hp, hc, hs]

/-- An entry added to a ring with room is one more unconsumed notice (R125). -/
theorem Ring.Within.entered {r : Ring} {cap : Capacity} (h : r.Within cap.entries)
    (hroom : r.hasRoom cap.entries = true) (sev : BitVec 2) (written : Word) (carried : Count) :
    (r.entered cap.entries sev written carried).Within cap.entries := by
  obtain ⟨hle, hlen, hshadow⟩ := h
  have hlt : (r.prod - r.cons).toNat < cap.entries := by simpa [Ring.hasRoom] using hroom
  have hsucc := count_succ_sub cap.entries_lt hlt
  have hslot : slotOf cap.entries r.prod = (r.cons.toNat + (r.prod - r.cons).toNat) % cap.entries :=
    count_mod_eq cap.entries_dvd r.cons r.prod
  have hprod : (r.entered cap.entries sev written carried).prod = r.prod + 1 := rfl
  have hcons : (r.entered cap.entries sev written carried).cons = r.cons := rfl
  have hsh : (r.entered cap.entries sev written carried).shadow
      = r.shadow.set (slotOf cap.entries r.prod) (some sev) := rfl
  unfold Ring.Within
  rw [hprod, hcons, hsh, hsucc, List.length_set]
  refine ⟨hlt, hlen, fun k hk => ?_⟩
  by_cases hks : slotOf cap.entries r.prod = k
  · rw [hks, List.getElem?_set_self (hlen ▸ hk)]
    exact ⟨fun _ => ⟨_, Nat.lt_succ_self _, hks ▸ hslot⟩, fun _ => ⟨sev, rfl⟩⟩
  · rw [List.getElem?_set_ne hks, hshadow k hk]
    constructor
    · rintro ⟨i, hi, hki⟩
      exact ⟨i, hi.trans (Nat.lt_succ_self _), hki⟩
    · rintro ⟨i, hi, hki⟩
      obtain hi | rfl := Nat.lt_succ_iff_lt_or_eq.mp hi
      · exact ⟨i, hi, hki⟩
      · exact absurd (hslot.trans hki.symm) hks

/-- A count taken that lies between CONS and PROD leaves the notices after it (R132). -/
theorem Ring.Within.take {r : Ring} {cap : Capacity} (h : r.Within cap.entries) {n : Count}
    (hn : (n - r.cons).toNat ≤ (r.prod - r.cons).toNat) :
    (r.take cap.entries n).Within cap.entries := by
  obtain ⟨hle, hlen, hshadow⟩ := h
  have hleft := count_sub_sub hn
  have hprod : (r.take cap.entries n).prod = r.prod := rfl
  have hcons : (r.take cap.entries n).cons = n := rfl
  have hsh : (r.take cap.entries n).shadow
      = clearSlots cap.entries r.shadow r.cons (n - r.cons).toNat := rfl
  unfold Ring.Within
  rw [hprod, hcons, hsh, hleft, clearSlots_length]
  refine ⟨(Nat.sub_le _ _).trans hle, hlen, fun k hk => ?_⟩
  have hmod : ∀ j, (n.toNat + j) % cap.entries
      = (r.cons.toNat + ((n - r.cons).toNat + j)) % cap.entries := by
    intro j
    rw [Nat.add_mod, count_mod_eq cap.entries_dvd r.cons n, ← Nat.add_mod, Nat.add_assoc]
  rw [clearSlots_getElem? _ _ _ _ (hlen ▸ hk)]
  simp only [count_add_mod cap.entries_dvd, hmod]
  split
  next hpassed =>
    obtain ⟨i, hi, hki⟩ := hpassed
    refine ⟨fun ⟨_, hs⟩ => by simp at hs, fun ⟨j, hj, hkj⟩ => ?_⟩
    exact absurd (hki.symm.trans hkj) (mod_add_ne (by omega) (by omega))
  next hnot =>
    rw [hshadow k hk]
    constructor
    · rintro ⟨i, hi, hki⟩
      have hge : (n - r.cons).toNat ≤ i := by
        by_contra hlt
        exact hnot ⟨i, Nat.lt_of_not_le hlt, hki⟩
      exact ⟨i - (n - r.cons).toNat, by omega, by rw [Nat.add_sub_cancel' hge]; exact hki⟩
    · rintro ⟨j, hj, hkj⟩
      exact ⟨(n - r.cons).toNat + j, by omega, hkj⟩

/-- A ring just installed holds no notice (R121). -/
theorem freshRing_within (pl : RingPlace) : (freshRing (some pl)).Within pl.cap.entries := by
  have hprod : (freshRing (some pl)).prod = 0 := rfl
  have hcons : (freshRing (some pl)).cons = 0 := rfl
  have hsh : (freshRing (some pl)).shadow = List.replicate pl.cap.entries none := rfl
  unfold Ring.Within
  rw [hprod, hcons, hsh]
  refine ⟨Nat.zero_le _, List.length_replicate, fun k hk => ?_⟩
  rw [List.getElem?_replicate, if_pos hk]
  simp

end Sys2Proof.Machine
end

section
/-! PROOFS. The rings (R121 to R132): in every configured ring no more notices are unconsumed than it has
entries and SHADOW marks exactly them, and the counts that a burst or a watched write waits for stay
good. -/

namespace Sys2Proof.Machine

/-- A valid watched write of a count to a ring is in flight at a port (R131). -/
def State.Watches (s : State) (p q : Port) (n : Count) : Prop :=
  ∃ acc t c, (s.engines.get p).estate = .inMemory acc t (.single (.watched q n)) c

/-- The operation is a notice burst of a ring. -/
def Op.Reports (op : Op) (q : Port) : Prop :=
  ∃ n, op = .entry q n ∨ op = .fullRing q n ∨ op = .lossReport q n

/-- R124, R129, R131 of every ring. -/
structure State.RingsGood (s : State) : Prop where
  within : s.RingsWithin
  room : ∀ g p n, s.granted = some g → g.op = .entry p n →
    ∀ pl, s.ringPlace p = some pl → (s.rings.get p).hasRoom pl.cap.entries = true
  named : ∀ g q, s.granted = some g → g.op.Reports q → (s.ringPlace q).isSome = true
  watched : ∀ p q n, s.Watches p q n →
    (s.rings.get q).watch = some p
      ∧ (n - (s.rings.get q).cons).toNat ≤ ((s.rings.get q).prod - (s.rings.get q).cons).toNat
      ∧ (s.ringPlace q).isSome = true

theorem State.ringsGood_iff (s : State) :
    s.RingsGood ↔ s.RingsWithin ∧ s.CountsHold ∧ s.RingsNamed := by
  constructor
  · rintro ⟨hw, hroom, hnamed, hwatch⟩
    refine ⟨hw, ⟨hroom, fun p acc t q n c he => ?_⟩,
      fun g q n hg hop => hnamed g q hg ⟨n, hop⟩, fun p acc t q n c he => ?_⟩
    · obtain ⟨h1, h2, -⟩ := hwatch p q n ⟨acc, t, c, he⟩
      exact ⟨h1, h2⟩
    · exact (hwatch p q n ⟨acc, t, c, he⟩).2.2
  · rintro ⟨hw, ⟨hroom, hcount⟩, hnamed, hring⟩
    refine ⟨hw, hroom, fun g q hg ⟨n, hop⟩ => hnamed g q n hg hop, ?_⟩
    rintro p q n ⟨acc, t, c, he⟩
    obtain ⟨h1, h2⟩ := hcount p acc t q n c he
    exact ⟨h1, h2, hring p acc t q n c he⟩

/-- Rings of the same counts, SHADOW and WATCH. -/
def State.RingsEven (s t : State) : Prop :=
  ∀ q, (t.rings.get q).prod = (s.rings.get q).prod ∧ (t.rings.get q).cons = (s.rings.get q).cons
    ∧ (t.rings.get q).shadow = (s.rings.get q).shadow
    ∧ (t.rings.get q).watch = (s.rings.get q).watch

theorem State.RingsEven.of_eq {s t : State} (h : t.rings = s.rings) : s.RingsEven t := by
  intro q
  rw [h]
  exact ⟨rfl, rfl, rfl, rfl⟩

theorem State.RingsEven.trans {s t u : State} (h : s.RingsEven t) (h' : t.RingsEven u) :
    s.RingsEven u := by
  intro q
  obtain ⟨h1, h2, h3, h4⟩ := h q
  obtain ⟨h1', h2', h3', h4'⟩ := h' q
  exact ⟨h1'.trans h1, h2'.trans h2, h3'.trans h3, h4'.trans h4⟩

/-- A ring replaced by one of the same counts, SHADOW and WATCH. -/
theorem State.setRing_even (s : State) (q : Port) {r : Ring} (hp : r.prod = (s.rings.get q).prod)
    (hc : r.cons = (s.rings.get q).cons) (hs : r.shadow = (s.rings.get q).shadow)
    (hw : r.watch = (s.rings.get q).watch) : s.RingsEven (s.setRing q r) := by
  intro x
  rw [State.setRing_rings]
  by_cases hx : x = q
  · subst hx
    rw [Both.get_set_self]
    exact ⟨hp, hc, hs, hw⟩
  · rw [Both.get_set_ne _ _ hx]
    exact ⟨rfl, rfl, rfl, rfl⟩

theorem State.ringPlace_of_map {s t : State} (h : t.map = s.map) (q : Port) :
    t.ringPlace q = s.ringPlace q := by
  simp only [State.ringPlace, h]

/-- The rings stay good with the same map, even rings, no other burst carried and no other watched write
in flight. -/
theorem State.RingsGood.even {s t : State} (h : s.RingsGood) (hm : t.map = s.map)
    (hr : s.RingsEven t)
    (hg : ∀ g', t.granted = some g' → ∀ q, g'.op.Reports q → ∃ g, s.granted = some g ∧ g.op = g'.op)
    (hw : ∀ p q n, t.Watches p q n → s.Watches p q n) : t.RingsGood where
  within p pl hpl := by
    rw [State.ringPlace_of_map hm] at hpl
    obtain ⟨h1, h2, h3, -⟩ := hr p
    exact (h.within p pl hpl).same h1 h2 h3
  room g' p n hg' hop pl hpl := by
    rw [State.ringPlace_of_map hm] at hpl
    obtain ⟨h1, h2, -, -⟩ := hr p
    obtain ⟨g, hgs, hop'⟩ := hg g' hg' p ⟨n, .inl hop⟩
    have hroom := h.room g p n hgs (hop'.trans hop) pl hpl
    unfold Ring.hasRoom at *
    rwa [h1, h2]
  named g' q hg' hop := by
    rw [State.ringPlace_of_map hm]
    obtain ⟨g, hgs, hop'⟩ := hg g' hg' q hop
    exact h.named g q hgs (hop' ▸ hop)
  watched p q n hwt := by
    obtain ⟨h1, h2, -, h4⟩ := hr q
    rw [State.ringPlace_of_map hm, h1, h2, h4]
    exact h.watched p q n (hw p q n hwt)

theorem State.watches_of_engines {s t : State} (he : t.engines = s.engines) {p q : Port} {n : Count}
    (h : t.Watches p q n) : s.Watches p q n := by
  unfold State.Watches at *
  rwa [he] at h

theorem State.RingsGood.same {s t : State} (h : s.RingsGood) (hm : t.map = s.map)
    (hr : t.rings = s.rings) (hg : t.granted = s.granted) (he : t.engines = s.engines) :
    t.RingsGood :=
  h.even hm (.of_eq hr) (fun g' hg' _ _ => ⟨g', hg ▸ hg', rfl⟩)
    fun _ _ _ => State.watches_of_engines he

/-- With no operation carried and no other watched write in flight. -/
theorem State.RingsGood.idle {s t : State} (h : s.RingsGood) (hm : t.map = s.map)
    (hr : s.RingsEven t) (hg : t.granted = none)
    (hw : ∀ p q n, t.Watches p q n → s.Watches p q n) : t.RingsGood :=
  h.even hm hr (fun g' hg' => by rw [hg] at hg'; cases hg') hw

/-! ## The watched write of a port -/

/-- A state that is not that of a watched write. -/
def EState.Unwatching (es : EState) : Prop :=
  ∀ acc t q n c, es ≠ .inMemory acc t (.single (.watched q n)) c

theorem State.watches_of_port {s t : State} {p : Port}
    (hother : ∀ q, q ≠ p → (t.engines.get q).estate = (s.engines.get q).estate)
    (hun : (t.engines.get p).estate.Unwatching) {x q : Port} {n : Count} (h : t.Watches x q n) :
    x ≠ p ∧ s.Watches x q n := by
  obtain ⟨acc, tk, c, he⟩ := h
  have hx : x ≠ p := by
    rintro rfl
    exact hun _ _ _ _ _ he
  exact ⟨hx, acc, tk, c, (hother x hx).symm.trans he⟩

/-- One watched write at most is in flight to a ring (R131). -/
theorem State.RingsGood.watch_unique {s : State} (h : s.RingsGood) {p p' q : Port} {n n' : Count}
    (hw : s.Watches p q n) (hw' : s.Watches p' q n') : p = p' := by
  obtain ⟨h1, -⟩ := h.watched p q n hw
  obtain ⟨h2, -⟩ := h.watched p' q n' hw'
  exact Option.some.inj (h1.symm.trans h2)

/-- The ring of a watched write that ends has its WATCH emptied; the others are as they were. -/
theorem State.unwatch_rings (s : State) (job : Job) (q : Port) :
    ((∃ n, job = .single (.watched q n))
        ∧ (s.unwatch job).rings.get q = { s.rings.get q with watch := none })
      ∨ (∀ n, job ≠ .single (.watched q n)) ∧ (s.unwatch job).rings.get q = s.rings.get q := by
  unfold State.unwatch
  split
  next ring n =>
    by_cases hq : q = ring
    · subst hq
      exact .inl ⟨⟨n, rfl⟩, Both.get_set_self _ _ _⟩
    · refine .inr ⟨fun n' heq => ?_, Both.get_set_ne _ _ hq⟩
      cases heq
      exact hq rfl
  next hn => exact .inr ⟨fun n heq => hn q n heq, rfl⟩

/-- A watched write ends: WATCH of its ring is emptied (R132), and the rings stay good. -/
theorem State.RingsGood.unwatch {s t : State} (h : s.RingsGood) {p : Port} {acc : Access}
    {tk : Option Taken} {job : Job} {c : ClaimState}
    (he : (s.engines.get p).estate = .inMemory acc tk job c) (hm : t.map = s.map)
    (hr : t.rings = (s.unwatch job).rings)
    (hg : ∀ g', t.granted = some g' → s.granted = some g')
    (hw : ∀ x q n, t.Watches x q n → x ≠ p ∧ s.Watches x q n) : t.RingsGood := by
  have hcounts : ∀ q, (t.rings.get q).prod = (s.rings.get q).prod
      ∧ (t.rings.get q).cons = (s.rings.get q).cons
      ∧ (t.rings.get q).shadow = (s.rings.get q).shadow := by
    intro q
    rw [hr]
    obtain ⟨-, hq⟩ | ⟨-, hq⟩ := s.unwatch_rings job q <;> rw [hq] <;> exact ⟨rfl, rfl, rfl⟩
  refine ⟨fun q pl hpl => ?_, fun g' q n hg' hop pl hpl => ?_, fun g' q hg' hop => ?_, ?_⟩
  · rw [State.ringPlace_of_map hm] at hpl
    obtain ⟨h1, h2, h3⟩ := hcounts q
    exact (h.within q pl hpl).same h1 h2 h3
  · rw [State.ringPlace_of_map hm] at hpl
    obtain ⟨h1, h2, -⟩ := hcounts q
    have hroom := h.room g' q n (hg g' hg') hop pl hpl
    unfold Ring.hasRoom at *
    rwa [h1, h2]
  · rw [State.ringPlace_of_map hm]
    exact h.named g' q (hg g' hg') hop
  · intro x q n hwt
    obtain ⟨hx, hws⟩ := hw x q n hwt
    obtain ⟨h1, h2, h3⟩ := h.watched x q n hws
    obtain ⟨e1, e2, -⟩ := hcounts q
    rw [State.ringPlace_of_map hm, e1, e2]
    refine ⟨?_, h2, h3⟩
    rw [hr]
    obtain ⟨⟨n', rfl⟩, -⟩ | ⟨-, hq⟩ := s.unwatch_rings job q
    · exact absurd (h.watch_unique hws ⟨acc, tk, c, he⟩) hx
    · rw [hq, h1]

/-! ## The shared operations -/

theorem State.raise_even (s : State) (r : Report) : s.RingsEven (s.raise r) := by
  obtain he | ⟨n, d, b, -, he⟩ | ⟨d, he⟩ | ⟨d, he⟩ := s.raise_cases r <;> rw [he]
  · exact .of_eq rfl
  · exact .of_eq rfl
  · intro q
    rw [State.countLost_rings_get]
    split <;> exact ⟨rfl, rfl, rfl, rfl⟩
  · exact .of_eq rfl

theorem State.RingsGood.raise {s : State} (h : s.RingsGood) (r : Report) : (s.raise r).RingsGood :=
  h.even (s.raise_work r).map (s.raise_even r)
    (fun g' hg' _ _ => ⟨g', (s.raise_granted r) ▸ hg', rfl⟩)
    fun _ _ _ => State.watches_of_engines (s.raise_engines r)

theorem Op.no_report_of_port {op : Op} {p q : Port} (h : op.port = some p) : ¬ op.Reports q := by
  rintro ⟨n, rfl | rfl | rfl⟩ <;> cases h

theorem State.startLoader_no_report {s : State} {c : LoaderClaim} (hg : s.granted = none)
    {g : Granted} (h : (s.startLoader c).granted = some g) (q : Port) : ¬ g.op.Reports q := by
  rintro ⟨n, hop⟩
  unfold State.startLoader at h
  split at h
  · cases h
    obtain hop | hop | hop := hop <;> cases hop
  · split at h
    · cases h
      obtain hop | hop | hop := hop <;> cases hop
    · rw [hg] at h
      cases h
  · split at h
    · split at h
      · cases h
        obtain hop | hop | hop := hop <;> cases hop
      · rw [hg] at h
        cases h
    · rw [hg] at h
      cases h

theorem State.watches_regrant {s t : State} {p : Port} {acc : Access} {tk : Option Taken} {job : Job}
    (he : (s.engines.get p).estate = .inMemory acc tk job .waiting)
    (ht : t.engines = (s.setEState p (.inMemory acc tk job .granted)).engines) {x q : Port}
    {n : Count} (h : t.Watches x q n) : s.Watches x q n := by
  obtain ⟨acc', tk', c, hx⟩ := h
  rw [ht, State.setEState_engines] at hx
  by_cases hxp : x = p
  · subst hxp
    rw [Both.get_set_self] at hx
    obtain ⟨rfl, rfl, rfl, -⟩ : acc = acc' ∧ tk = tk' ∧ job = .single (.watched q n)
        ∧ ClaimState.granted = c := by simpa using hx
    exact ⟨_, _, _, he⟩
  · rw [Both.get_set_ne _ _ hxp] at hx
    exact ⟨_, _, _, hx⟩

/-- A notice burst granted is for a configured ring, and an entry burst has found room (R124, R126,
R127). -/
theorem State.RingsGood.startNotice {s : State} (h : s.RingsGood) (c : NoticeClaim)
    (hg : s.granted = none) : (s.startNotice c).RingsGood := by
  have hissue : ∀ (v : State) (op : Op) (q : Port) (todo : List WordAccess) (pl : RingPlace),
      v.RingsGood → v.ringPlace q = some pl → (∀ x, op.Reports x → x = q) →
      (∀ x n, op = .entry x n → (v.rings.get q).hasRoom pl.cap.entries = true) →
      (v.issue op todo 0 []).RingsGood := by
    intro v op q todo pl hv hpl hq hroom
    refine ⟨hv.within, fun g' x n hg' hop pl' hpl' => ?_, fun g' x hg' hop => ?_, hv.watched⟩
    · obtain rfl := Option.some.inj hg'
      obtain rfl := hq x ⟨n, .inl hop⟩
      obtain rfl : pl = pl' := Option.some.inj (hpl.symm.trans hpl')
      exact hroom x n hop
    · obtain rfl := Option.some.inj hg'
      obtain rfl := hq x hop
      exact Option.isSome_of_eq_some hpl
  unfold State.startNotice
  split
  · split
    · exact h
    next q _ pl hpl =>
      refine hissue s _ _ _ pl h hpl ?_ nofun
      rintro x ⟨n, hop | hop | hop⟩ <;> cases hop
      rfl
  · split
    next q e es hpl _ =>
      dsimp only
      split
      next hroom =>
        refine hissue s _ _ _ _ h hpl ?_ fun _ _ _ => hroom
        rintro x ⟨n, hop | hop | hop⟩ <;> cases hop
        rfl
      next =>
        refine hissue _ _ _ _ _ (h.even rfl (s.setRing_even _ rfl rfl rfl rfl) ?_ fun _ _ _ => id)
          hpl ?_ nofun
        · intro g' hg'
          rw [State.setRing_granted, hg] at hg'
          cases hg'
        · rintro x ⟨n, hop | hop | hop⟩ <;> cases hop
          rfl
    · exact h

theorem State.RingsGood.grants {s t : State} (h : s.RingsGood) (hgr : s.Grants t) :
    t.RingsGood := by
  cases hgr with
  | nothing => exact h
  | @loader c hg _ =>
    refine h.even (State.startLoader_work { s with loaderClaim := none } c).map
      (.of_eq (State.startLoader_rings { s with loaderClaim := none } c))
      (fun g' hg' q hop => absurd hop
        (State.startLoader_no_report (s := { s with loaderClaim := none }) hg hg' q))
      fun _ _ _ => State.watches_of_engines (State.startLoader_engines { s with loaderClaim := none } c)
  | @port p acc tk job x hg hw =>
    have hs : { s with pointer := x }.engines = s.engines := rfl
    obtain ⟨g, hgr, hserves⟩ := State.startPort_granted (s := { s with pointer := x }) hw
    refine h.even (State.startPort_work { s with pointer := x } p).map
      (.of_eq (State.startPort_rings { s with pointer := x } p)) (fun g' hg' q hop => ?_)
      fun _ _ _ => State.watches_regrant (s := s) hw
        (State.startPort_engines (s := { s with pointer := x }) hw)
    obtain rfl : g = g' := Option.some.inj (hgr.symm.trans hg')
    exact absurd hop (Op.no_report_of_port (Op.serves_port hserves))
  | @notice c x hg _ =>
    exact State.RingsGood.startNotice (s := { s with pointer := x, noticeClaim := none })
      (h.same rfl rfl rfl rfl) c hg

/-- An engine goes to a state that is not that of a watched write. -/
theorem State.RingsGood.port {s t : State} (h : s.RingsGood) (p : Port) (hm : t.map = s.map)
    (hr : s.RingsEven t) (hg : t.granted = s.granted)
    (hother : ∀ q, q ≠ p → (t.engines.get q).estate = (s.engines.get q).estate)
    (hun : (t.engines.get p).estate.Unwatching) : t.RingsGood :=
  h.even hm hr (fun g' hg' _ _ => ⟨g', hg ▸ hg', rfl⟩)
    fun _ _ _ hw => (State.watches_of_port hother hun hw).2

/-- A watched write that is valid sets WATCH and is in flight (R131). -/
theorem State.RingsGood.watch {s : State} (h : s.RingsGood) {p q : Port} {acc : Access} {t : Taken}
    {n : Count} (hv : (s.rings.get q).validCount n = true) (hring : (s.ringPlace q).isSome = true) :
    ((s.setRing q { s.rings.get q with watch := some p }).claim p acc (some t)
      (.single (.watched q n))).RingsGood := by
  obtain ⟨hle, hnone⟩ : (n - (s.rings.get q).cons).toNat
      ≤ ((s.rings.get q).prod - (s.rings.get q).cons).toNat ∧ (s.rings.get q).watch = none := by
    simpa [Ring.validCount] using hv
  have hself : (s.rings.set q { s.rings.get q with watch := some p }).get q
      = { s.rings.get q with watch := some p } := Both.get_set_self _ _ _
  have hother : ∀ {x}, x ≠ q → (s.rings.set q { s.rings.get q with watch := some p }).get x
      = s.rings.get x := fun hx => Both.get_set_ne _ _ hx
  have hcounts : ∀ x, ((s.rings.set q { s.rings.get q with watch := some p }).get x).prod
        = (s.rings.get x).prod
      ∧ ((s.rings.set q { s.rings.get q with watch := some p }).get x).cons = (s.rings.get x).cons
      ∧ ((s.rings.set q { s.rings.get q with watch := some p }).get x).shadow
        = (s.rings.get x).shadow := by
    intro x
    by_cases hx : x = q
    · subst hx
      rw [hself]
      exact ⟨rfl, rfl, rfl⟩
    · rw [hother hx]
      exact ⟨rfl, rfl, rfl⟩
  refine ⟨fun x pl hpl => ?_, fun g x m hg hop pl hpl => ?_, h.named, ?_⟩
  · obtain ⟨h1, h2, h3⟩ := hcounts x
    exact (h.within x pl hpl).same h1 h2 h3
  · have hroom := h.room g x m hg hop pl hpl
    obtain ⟨h1, h2, -⟩ := hcounts x
    change ((s.rings.set q { s.rings.get q with watch := some p }).get x).hasRoom _ = true
    unfold Ring.hasRoom at *
    rwa [h1, h2]
  · rintro x y m ⟨acc', t', c, he⟩
    change ((s.rings.set q { s.rings.get q with watch := some p }).get y).watch = some x ∧ _
    rw [State.claim_engines] at he
    by_cases hx : x = p
    · subst hx
      rw [Both.get_set_self] at he
      obtain ⟨-, -, ⟨rfl, rfl⟩, -⟩ : acc = acc' ∧ some t = t' ∧ (q = y ∧ n = m)
          ∧ ClaimState.waiting = c := by simpa using he
      rw [hself]
      exact ⟨rfl, by simpa [hself] using hle, hring⟩
    · rw [Both.get_set_ne _ _ hx] at he
      obtain ⟨h1, h2, h3⟩ := h.watched x y m ⟨acc', t', c, he⟩
      have hy : y ≠ q := by
        rintro rfl
        rw [hnone] at h1
        cases h1
      rw [hother hy]
      exact ⟨h1, by simpa [hother hy] using h2, h3⟩

theorem EState.Unwatching.of_job (acc : Access) (t : Option Taken) {job : Job} (c : ClaimState)
    (h : ∀ q n, job ≠ .single (.watched q n)) : (EState.inMemory acc t job c).Unwatching := by
  intro _ _ q n _ he
  obtain ⟨-, -, hj, -⟩ := EState.inMemory.inj he
  exact h q n hj

theorem EState.Unwatching.of_rest {es : EState} (h : es = .idle ∨ ∃ acc, es = .held acc) :
    es.Unwatching := by
  intro _ _ _ _ _ he
  obtain rfl | ⟨acc, rfl⟩ := h <;> cases he

/-- An access that is taken is a valid watched write, or leaves the rings and is none (R130, R131). -/
theorem State.Takes.rings {s : State} {p : Port} {acc : Access} {x : State × List Report}
    (hx : s.Takes p acc x) :
    (x.1.rings = s.rings ∧ (x.1.engines.get p).estate.Unwatching)
      ∨ ∃ t q n, (s.rings.get q).validCount n = true ∧ (s.ringPlace q).isSome = true
          ∧ x.1 = (s.setRing q { s.rings.get q with watch := some p }).claim p acc (some t)
              (.single (.watched q n)) := by
  have hport : ∀ (e : Engine) y, e.estate.Unwatching →
      (s.withPort p e y).rings = s.rings
        ∧ ((s.withPort p e y).engines.get p).estate.Unwatching := by
    intro e y he
    rw [State.withPort_engines, Both.get_set_self]
    exact ⟨rfl, he⟩
  have hidle : EState.idle.Unwatching := .of_rest (.inl rfl)
  have hjob : ∀ (t : Taken) {job : Job}, (∀ q n, job ≠ .single (.watched q n)) →
      (EState.inMemory acc (some t) job .waiting).Unwatching :=
    fun t _ hj => .of_job acc _ _ hj
  cases hx with
  | ends =>
    rw [State.endAccess_eq]
    exact .inl (hport _ _ hidle)
  | holds =>
    rw [State.setEState_eq]
    exact .inl (hport _ _ (.of_rest (.inr ⟨acc, rfl⟩)))
  | single _ hp =>
    rw [State.claim_eq]
    refine .inl (hport _ _ (.of_job acc _ _ fun q n heq => ?_))
    exact hp q n (Job.single.inj heq)
  | watched hm hring hv =>
    refine .inr ⟨_, _, _, hv, ?_, rfl⟩
    rw [State.ringPlace, State.map_of_active hm]
    exact hring
  | staged =>
    rw [State.stageWrite_eq]
    split
    · exact .inl (hport _ _ (hjob _ nofun))
    · exact .inl (hport _ _ hidle)
  | opens _ _ hses =>
    cases hpol : (s.spec _).policy with
    | guarded =>
      rw [State.openSession_guarded _ _ _ _ _ _ _ hpol]
      exact .inl (hport _ _ (hjob _ nofun))
    | last =>
      rw [State.openSession_last _ _ _ _ _ _ hpol hses]
      dsimp only
      split
      · exact .inl (hport _ _ (hjob _ nofun))
      · exact .inl (hport _ _ hidle)
  | serves =>
    rw [State.serve_eq]
    exact .inl (hport _ _ hidle)
  | takes =>
    rw [State.takeCapture_eq]
    exact .inl (hport _ _ (hjob _ nofun))

theorem State.RingsGood.taking {s : State} (h : s.RingsGood) (p : Port) (acc : Access) :
    (s.taking p acc).1.RingsGood := by
  have hx := State.taking_takes s p acc
  obtain ⟨hr, hun⟩ | ⟨t, q, n, hv, hring, heq⟩ := hx.rings
  · exact h.port p (s.taking_work p acc).map (.of_eq hr) (s.taking_granted p acc)
      (fun q hq => by rw [(hx.other hq).1]) hun
  · rw [heq]
    exact h.watch hv hring

theorem State.dropJob_rings (s : State) (p : Port) (tk : Option Taken) (job : Job) :
    (s.dropJob p tk job).rings = (s.unwatch job).rings := by
  cases job <;> rfl

/-- The hold limit ends an access that is not in the memory (R168). -/
theorem State.RingsGood.hold {s t : State} {p : Port} {r : Report} (h : s.RingsGood)
    (hx : s.holdExpiry p = some (t, r)) : t.RingsGood := by
  obtain ⟨-, hidle, hother⟩ := State.holdExpiry_engines hx
  have hm := (State.holdExpiry_work hx).map
  have hg : t.granted = s.granted := by rw [State.holdExpiry_work hx]
  have hun : (t.engines.get p).estate.Unwatching := .of_rest (.inl hidle)
  have hrest : ∀ q, q ≠ p → (t.engines.get q).estate = (s.engines.get q).estate :=
    fun q hq => by rw [hother q hq]
  unfold State.holdExpiry at hx
  split at hx
  next he =>
    split at hx <;> cases hx
    exact h.port p hm (.of_eq rfl) hg hrest hun
  next he =>
    split at hx <;> cases hx
    exact h.unwatch he hm (s.dropJob_rings p _ _) (fun g' hg' => hg ▸ hg')
      fun _ _ _ => State.watches_of_port hrest hun
  · cases hx

/-- The shared operations keep the rings good. -/
theorem kept_rings : Kept State.RingsGood where
  free _ h := h.same rfl rfl rfl rfl
  raise r h := h.raise r
  choose h := by
    rw [State.chooseNotice_frame]
    exact h.same rfl rfl rfl rfl
  grants hg h := h.grants hg
  pins _ _ h := h.same rfl rfl rfl rfl
  drop {s p _} _ h := by
    refine h.port p rfl (.of_eq rfl) rfl (fun q hq => ?_) ?_
    · rw [State.setEState_engines, Both.get_set_ne _ _ hq]
    · rw [State.setEState_engines, Both.get_set_self]
      exact .of_rest (.inl rfl)
  taking acc _ h := h.taking _ acc
  hold hx h := h.hold hx
  session {s t p _ _ _} hx h := by
    have hg : t.granted = s.granted := by rw [State.sessionExpiry_work hx]
    have hr : t.rings = s.rings := by
      unfold State.sessionExpiry at hx
      repeat' split at hx
      all_goals cases hx
      rfl
    refine h.even (State.sessionExpiry_work hx).map (.of_eq hr)
      (fun g' hg' _ _ => ⟨g', hg ▸ hg', rfl⟩) fun x q n hw => ?_
    unfold State.Watches at *
    rwa [State.sessionExpiry_estate hx] at hw

end Sys2Proof.Machine
end

section
/-! PROOFS. Every command keeps the rings good (R121 to R132). -/

namespace Sys2Proof.Machine

/-- An operation has been answered; the rings and the accesses in flight are as they were. -/
theorem State.RingsGood.answered {s : State} (h : s.RingsGood) (w : WordAccess) (ans : Answer) :
    (s.answered w ans).RingsGood :=
  h.idle (s.answered_lines w ans).map (.of_eq (s.answered_rings w ans)) rfl
    fun _ _ _ => State.watches_of_engines (s.answered_engines w ans)

theorem State.expired_rings (s : State) (w : WordAccess) : (s.expired w).rings = s.rings := by
  rw [State.expired, s.landExpired_frame]

theorem State.RingsGood.expired {s : State} (h : s.RingsGood) (w : WordAccess) :
    (s.expired w).RingsGood :=
  h.idle (s.expired_lines w).map (.of_eq (s.expired_rings w)) rfl
    fun _ _ _ => State.watches_of_engines (s.expired_engines w)

/-- An access ends that is no watched write. -/
theorem State.RingsGood.ends {s t : State} {p : Port} (h : s.RingsGood) (hend : s.EndsAt p t)
    (hm : t.map = s.map) (hr : s.RingsEven t) : t.RingsGood :=
  h.port p hm hr hend.granted (fun q hq => by rw [hend.other q hq])
    (by rw [hend.idle]; exact .of_rest (.inl rfl))

/-- A valid watched write completes: the count is taken and the write ends (R132). -/
theorem State.RingsGood.takeCount {s : State} (h : s.RingsGood) {p q : Port} {n : Count}
    (acc : Access) (hw : s.Watches p q n) (hg : s.granted = none) :
    ((s.takeCount q n).endReady p acc 0).RingsGood := by
  obtain ⟨-, hle, hsome⟩ := h.watched p q n hw
  obtain ⟨pl, hpl⟩ := Option.isSome_iff_exists.mp hsome
  have hentries : s.ringEntries q = pl.cap.entries := by simp only [State.ringEntries, hpl]
  have hself : ((s.takeCount q n).endReady p acc 0).rings.get q
      = (s.rings.get q).take pl.cap.entries n := by
    rw [← hentries]
    exact Both.get_set_self _ _ _
  have hother : ∀ x, x ≠ q →
      ((s.takeCount q n).endReady p acc 0).rings.get x = s.rings.get x :=
    fun x hx => Both.get_set_ne _ _ hx
  have hend := s.takeCount_endsAt p q acc n
  refine ⟨fun x plx hplx => ?_, fun g _ _ hg' => ?_, fun g _ hg' => ?_, fun x y m hwt => ?_⟩
  · by_cases hx : x = q
    · subst hx
      obtain rfl : pl = plx := Option.some.inj (hpl.symm.trans hplx)
      rw [hself]
      exact (h.within x pl hpl).take hle
    · rw [hother x hx]
      exact h.within x plx hplx
  · rw [hend.granted, hg] at hg'
    cases hg'
  · rw [hend.granted, hg] at hg'
    cases hg'
  · obtain ⟨hx, hws⟩ := State.watches_of_port (s := s) (fun z hz => by rw [hend.other z hz])
      (by rw [hend.idle]; exact .of_rest (.inl rfl)) hwt
    have hy : y ≠ q := by
      rintro rfl
      exact hx (h.watch_unique hws hw)
    rw [hother y hy]
    exact h.watched x y m hws

/-- An entry burst completes in a ring with room (R125). -/
theorem State.RingsGood.entered {s : State} (h : s.RingsGood) {q : Port} {pl : RingPlace}
    (hpl : s.ringPlace q = some pl) (hroom : (s.rings.get q).hasRoom pl.cap.entries = true)
    (hg : s.granted = none) (sev : BitVec 2) (written : Word) (carried : Count) :
    (s.setRing q ((s.rings.get q).entered pl.cap.entries sev written carried)).RingsGood := by
  have hlt : ((s.rings.get q).prod - (s.rings.get q).cons).toNat < pl.cap.entries := by
    simpa [Ring.hasRoom] using hroom
  have hsucc := count_succ_sub pl.cap.entries_lt hlt
  have hself : (s.setRing q ((s.rings.get q).entered pl.cap.entries sev written carried)).rings.get q
      = (s.rings.get q).entered pl.cap.entries sev written carried := Both.get_set_self _ _ _
  have hother : ∀ x, x ≠ q →
      (s.setRing q ((s.rings.get q).entered pl.cap.entries sev written carried)).rings.get x
        = s.rings.get x := fun x hx => Both.get_set_ne _ _ hx
  refine ⟨fun x plx hplx => ?_, fun g _ _ hg' => ?_, fun g _ hg' => ?_, fun x y m hw => ?_⟩
  · by_cases hx : x = q
    · subst hx
      obtain rfl : pl = plx := Option.some.inj (hpl.symm.trans hplx)
      rw [hself]
      exact (h.within x pl hpl).entered hroom sev written carried
    · rw [hother x hx]
      exact h.within x plx hplx
  · rw [State.setRing_granted, hg] at hg'
    cases hg'
  · rw [State.setRing_granted, hg] at hg'
    cases hg'
  · obtain ⟨h1, h2, h3⟩ := h.watched x y m hw
    by_cases hy : y = q
    · subst hy
      rw [hself]
      refine ⟨h1, ?_, h3⟩
      change (m - (s.rings.get y).cons).toNat
        ≤ ((s.rings.get y).prod + 1 - (s.rings.get y).cons).toNat
      rw [hsucc]
      exact h2.trans (Nat.le_succ _)
    · rw [hother y hy]
      exact ⟨h1, h2, h3⟩

/-- What a load does at a port (R57, R94, R102, R132). -/
theorem State.RingsGood.emptyForLoad {s : State} (h : s.RingsGood) (p : Port) :
    (s.emptyForLoad p).RingsGood := by
  have hm := (s.emptyForLoad_work p).map
  have hg : (s.emptyForLoad p).granted = s.granted := by rw [s.emptyForLoad_work p]
  have hother : ∀ q, q ≠ p → ((s.emptyForLoad p).engines.get q).estate = (s.engines.get q).estate :=
    fun q hq => by rw [s.emptyForLoad_other p hq]
  obtain ⟨hwait, he⟩ | ⟨acc, t, job, hwait, he⟩ := s.emptyForLoad_estate p
  · have hr : (s.emptyForLoad p).rings = s.rings := by
      unfold State.emptyForLoad State.withdraw
      dsimp only
      split
      · rfl
      · split
        next hw => simp only [Engine.waiting, hw, reduceCtorEq] at hwait
        · rfl
    refine h.even hm (.of_eq hr) (fun g' hg' _ _ => ⟨g', hg ▸ hg', rfl⟩) fun x q n hw => ?_
    unfold State.Watches at *
    by_cases hx : x = p
    · subst hx
      rwa [he] at hw
    · rwa [hother x hx] at hw
  · have hr : (s.emptyForLoad p).rings = (s.unwatch job).rings := by
      have hc : (s.engines.get p).carried = false := by simp only [Engine.carried, hwait]
      simp only [State.emptyForLoad, hc, State.withdraw, hwait]
      rfl
    refine h.unwatch hwait hm hr (fun g' hg' => hg ▸ hg') fun _ _ _ =>
      State.watches_of_port hother ?_
    rw [he]
    exact .of_rest (.inr ⟨acc, rfl⟩)

theorem State.RingsGood.clearIfLoading {s : State} (h : s.RingsGood) (p : Port) :
    (s.clearIfLoading p).RingsGood := by
  unfold State.clearIfLoading
  split
  · exact Kept.raiseAll kept_rings _ (h.emptyForLoad p)
  · exact h

theorem State.RingsGood.beginLoad {s : State} (h : s.RingsGood) (p : Port) (n : Nat) (gf : Bool)
    (entry : EntryOrder) : (s.beginLoad p n gf entry).RingsGood := by
  have hevents := Kept.grantIf kept_rings gf (Kept.takeEvents kept_rings entry.events h)
  have henter : (((s.takeEvents entry.events).1.grantIf gf).enterLoading p n).RingsGood :=
    hevents.same rfl rfl rfl rfl
  exact Kept.raiseAll kept_rings _ ((henter.emptyForLoad .a).emptyForLoad .b)

theorem State.releaseDeferred_even (s : State) : s.RingsEven s.releaseDeferred := by
  unfold State.releaseDeferred
  split
  · exact .of_eq rfl
  · intro q
    cases q <;> dsimp only [Both.get] <;> unfold Ring.addDeferred <;> split <;>
      exact ⟨rfl, rfl, rfl, rfl⟩

theorem State.RingsGood.endLoad {s : State} (h : s.RingsGood) (ld : Load) (order : EndOrder) :
    (s.endLoad ld order).RingsGood := by
  have hw := s.releaseDeferred_work
  have hg : s.releaseDeferred.granted = s.granted := by rw [hw]
  exact Kept.endLoad kept_rings ld order (h.even hw.map s.releaseDeferred_even
    (fun g' hg' _ _ => ⟨g', hg ▸ hg', rfl⟩)
    fun _ _ _ => State.watches_of_engines s.releaseDeferred_engines)

theorem State.RingsGood.endFailed {s : State} {ld : Load} (h : s.RingsGood) (order : EndOrder)
    (hl : s.part = .loading ld) : (s.endFailed ld order).RingsGood :=
  State.RingsGood.endLoad (s := { s with part := ld.fromState })
    (h.same (Load.fromState_map hl) rfl rfl rfl) ld order

/-- The rings just installed hold nothing, and no access is in the memory as a load ends (R157). -/
theorem State.install_ringsGood {s : State} (cand : RecordMap) (hg : s.granted = none)
    (hun : ∀ p, (s.engines.get p).estate.Unwatching) : (s.install cand).RingsGood := by
  refine ⟨fun p pl hpl => ?_, fun g _ _ hg' => ?_, fun g _ hg' => ?_, ?_⟩
  · have hring : (s.install cand).rings.get p = freshRing (cand.rings.get p) := by cases p <;> rfl
    have hplace : cand.rings.get p = some pl := hpl
    rw [hring, hplace]
    exact freshRing_within pl
  · exact absurd (hg.symm.trans hg') nofun
  · exact absurd (hg.symm.trans hg') nofun
  · rintro p q n ⟨acc, t, c, he⟩
    exact absurd he (hun p _ _ _ _ _)

/-- While the loader's operation is carried in LOADING no access is in the memory (R96, R102). -/
theorem State.InOrder.unwatching {s : State} (h : s.InOrder) {g : Granted}
    (hg : s.granted = some g) (hport : g.op.port = none) (hl : s.isLoading = true) (p : Port) :
    (s.engines.get p).estate.Unwatching := by
  intro acc t q n c he
  cases c with
  | granted => exact h.agree.uncarried hg (q := p) (by rw [hport]; exact nofun) _ _ _ he
  | waiting =>
    have hw := h.quiet hl p
    simp only [Engine.waiting, he, reduceCtorEq] at hw

theorem State.stageWrite_rings (s : State) (p : Port) (acc : Access) (t : Taken) (ses : Session)
    (o : Nat) : (s.stageWrite p acc t ses o).rings = s.rings
      ∧ ((s.stageWrite p acc t ses o).engines.get p).estate.Unwatching := by
  rw [State.stageWrite_eq]
  split <;> rw [State.withPort_engines, Both.get_set_self]
  · exact ⟨rfl, .of_job acc _ _ nofun⟩
  · exact ⟨rfl, .of_rest (.inl rfl)⟩

theorem State.RingsGood.stageWrite {s : State} (h : s.RingsGood) (p : Port) (acc : Access)
    (t : Taken) (ses : Session) (o : Nat) : (s.stageWrite p acc t ses o).RingsGood := by
  obtain ⟨hr, hun⟩ := s.stageWrite_rings p acc t ses o
  obtain ⟨-, -, hother⟩ := s.stageWrite_claims p acc t ses o
  have hw := s.stageWrite_work p acc t ses o
  exact h.port p hw.map (.of_eq hr) (by rw [hw]) (fun q hq => by rw [hother q hq]) hun

theorem State.fillCapture_even (s : State) (p : Port) (acc : Access) (t : Taken) (c : Capture)
    (words : List Word) : s.RingsEven (s.fillCapture p acc t c words) := by
  unfold State.fillCapture
  dsimp only
  rw [State.serve_eq]
  refine State.RingsEven.trans ?_ (State.RingsEven.of_eq (State.withPort_rings _ _ _ _))
  split
  · exact s.raise_even _
  · exact .of_eq rfl

theorem State.RingsGood.fillCapture {s : State} (h : s.RingsGood) (p : Port) (acc : Access)
    (t : Taken) (c : Capture) (words : List Word) : (s.fillCapture p acc t c words).RingsGood :=
  h.ends (s.fillCapture_endsAt p acc t c words) (s.fillCapture_work p acc t c words).map
    (s.fillCapture_even p acc t c words)

/-- A single operation expires: WATCH of a watched write is emptied (R105, R132). -/
theorem State.RingsGood.expireSingle {s : State} (h : s.RingsGood) (p : Port) :
    (s.expireSingle p).RingsGood := by
  unfold State.expireSingle
  split
  next acc t purpose hf =>
    have hw := s.unwatch_work (.single purpose)
    have hend : s.EndsAt p ((s.unwatch (.single purpose)).endFault p acc) :=
      .of_end _ (fun q _ => by rw [State.unwatch_engines]) (by rw [hw]) (by rw [hw])
    have hgood : ((s.unwatch (.single purpose)).endFault p acc).RingsGood :=
      h.unwatch (State.inFlight_carries hf) hw.map rfl (fun g' hg' => hend.granted ▸ hg')
        fun _ _ _ => State.watches_of_port (fun q hq => by rw [hend.other q hq])
          (by rw [hend.idle]; exact .of_rest (.inl rfl))
    dsimp only
    split
    · exact hgood
    · exact hgood.raise _
  · exact h

theorem State.RingsGood.freeSession_end {s : State} (h : s.RingsGood) (p : Port) (w r : Nat)
    (o : PortOut) : ((s.freeSession p w r).endAccess p o).RingsGood :=
  h.ends (s.freeSession_endsAt p w r o) rfl (.of_eq rfl)

theorem State.RingsGood.freeCapture_end {s : State} (h : s.RingsGood) (p : Port) (w r : Nat)
    (o : PortOut) : ((s.freeCapture p w r).endAccess p o).RingsGood :=
  h.ends (s.freeCapture_endsAt p w r o) rfl (.of_eq rfl)

theorem State.RingsGood.expireStampRead {s : State} (h : s.RingsGood) (p : Port) :
    (s.expireStampRead p).RingsGood := by
  unfold State.expireStampRead
  split
  · exact Kept.free kept_rings _ ((h.freeSession_end _ _ _ _).raise _)
  · exact h

theorem State.RingsGood.expireCapture {s : State} (h : s.RingsGood) (p : Port) (g : Granted) :
    (s.expireCapture p g).RingsGood := by
  unfold State.expireCapture
  split
  · exact (h.freeCapture_end _ _ _ _).raise _
  · exact h

theorem State.RingsGood.expireReading {s : State} (h : s.RingsGood) (p : Port) (w : WordAccess) :
    (s.expireReading p w).RingsGood := by
  unfold State.expireReading
  split
  · exact (h.freeSession_end _ _ _ _).raise _
  · exact h

theorem State.RingsGood.enterTorn {s : State} (h : s.RingsGood) (base : WAddr) (w : Nat) :
    (s.enterTorn base w).RingsGood := by
  unfold State.enterTorn
  dsimp only
  repeat' split
  · exact h
  · exact h.same rfl rfl rfl rfl
  · exact h
  · exact State.RingsGood.raise (s := { s with suspect := s.suspect.set w true })
      (h.same rfl rfl rfl rfl) _

theorem State.RingsGood.expireWriting {s : State} (h : s.RingsGood) (p : Port) (g : Granted) :
    (s.expireWriting p g).RingsGood := by
  unfold State.expireWriting
  split
  · exact ((h.enterTorn _ _).freeSession_end _ _ _ _).raise _
  · exact h

theorem State.RingsGood.setRing {s : State} (h : s.RingsGood) (q : Port) {r : Ring}
    (hp : r.prod = (s.rings.get q).prod) (hc : r.cons = (s.rings.get q).cons)
    (hs : r.shadow = (s.rings.get q).shadow) (hw : r.watch = (s.rings.get q).watch) :
    (s.setRing q r).RingsGood :=
  h.even rfl (s.setRing_even q hp hc hs hw) (fun g' hg' _ _ => ⟨g', hg', rfl⟩) fun _ _ _ => id

theorem State.RingsGood.handled {s : State} (h : s.RingsGood) (q : Port) :
    (s.handled q).RingsGood := h.same rfl rfl rfl rfl

theorem State.RingsGood.evaluateAttention {s : State} (h : s.RingsGood) (q : Port) :
    (s.evaluateAttention q).RingsGood := h.same rfl rfl rfl rfl

theorem State.RingsGood.expireNotice {s : State} (h : s.RingsGood) (p : Port)
    (entry handles : Bool) : (s.expireNotice p entry handles).RingsGood := by
  unfold State.expireNotice
  dsimp only
  split
  · exact State.RingsGood.handled (h.setRing p (by rfl) (by rfl) (by rfl) (by rfl)) p
  · exact h.setRing p rfl rfl rfl rfl

theorem State.RingsGood.failLoad {s : State} {ld : Load} (h : s.RingsGood) (r : LoadResult)
    (hl : s.part = .loading ld) : (s.failLoad ld r).RingsGood :=
  h.same (State.failLoad_lines r hl).map rfl rfl rfl

theorem State.RingsGood.expireLoader {s : State} (h : s.RingsGood) (order : EndOrder) :
    (s.expireLoader order).RingsGood := by
  have hgrant := Kept.grantIf kept_rings order.grantAtEnd h
  have hpart : (s.grantIf order.grantAtEnd).part = s.part := by rw [s.grantIf_work]
  unfold State.expireLoader
  dsimp only
  split
  next hl =>
    rw [← hpart] at hl
    split
    · split
      · exact hgrant.endFailed order hl
      · exact hgrant.failLoad _ hl
    · exact hgrant.failLoad _ hl
  · exact h

theorem State.RingsGood.expire {s : State} (h : s.RingsGood) (g : Granted) (w : WordAccess)
    (order : EndOrder) : (s.expire g w order).RingsGood := by
  unfold State.expire
  split
  · exact Kept.chooseAfter kept_rings _ (h.expireSingle _)
  · exact Kept.chooseAfter kept_rings _ (h.expireStampRead _)
  · exact Kept.chooseAfter kept_rings _ (h.expireCapture _ _)
  · exact Kept.chooseAfter kept_rings _ (h.expireReading _ _)
  · exact Kept.chooseAfter kept_rings _ (h.expireWriting _ _)
  · exact Kept.chooseAfter kept_rings _ (h.expireNotice _ _ _)
  · exact Kept.chooseAfter kept_rings _ (h.expireNotice _ _ _)
  · exact Kept.chooseAfter kept_rings _ (h.expireNotice _ _ _)
  · exact Kept.choose kept_rings (h.expireLoader _)
  · exact Kept.choose kept_rings (h.expireLoader _)
  · exact Kept.choose kept_rings (h.expireLoader _)

theorem State.afterReset_ringsGood (s : State) : s.afterReset.RingsGood := by
  refine ⟨fun p pl hpl => absurd hpl nofun, nofun, nofun, ?_⟩
  rintro p q n ⟨acc, t, c, he⟩
  have hidle : (s.afterReset.engines.get p).estate = .idle :=
    congrArg Engine.estate (Both.get_same Engine.empty p)
  rw [hidle] at he
  cases he

/-- A further word access of the operation carried: the rings stay good. -/
theorem State.RingsGood.goesOn {s t : State} (h : s.RingsGood) {g g' : Granted}
    (hs : s.granted = some g) (ht : t.granted = some g') (hm : t.map = s.map)
    (hr : t.rings = s.rings) (he : t.engines = s.engines)
    (hop : ∀ q, g'.op.Reports q → g'.op = g.op) : t.RingsGood := by
  refine h.even hm (.of_eq hr) (fun g'' hg'' q hrep => ⟨g, hs, ?_⟩)
    fun _ _ _ => State.watches_of_engines he
  obtain rfl : g' = g'' := Option.some.inj (ht.symm.trans hg'')
  exact (hop q hrep).symm

theorem State.RingsGood.committed {s : State} (h : s.RingsGood) (p : Port) (acc : Access)
    (ses : Session) :
    (((s.healTorn ses.base ses.window).freeSession p ses.window ses.record).endReady p acc
      0).RingsGood :=
  h.ends (s.committed_endsAt p acc ses) rfl (.of_eq rfl)

theorem State.RingsGood.endReady {s : State} (h : s.RingsGood) (p : Port) (acc : Access)
    (w : Word) : (s.endReady p acc w).RingsGood :=
  h.ends (s.endReady_endsAt p acc w) rfl (.of_eq rfl)

theorem State.RingsGood.endStale {s : State} (h : s.RingsGood) (p : Port) (acc : Access)
    (ses : Session) (found : Count) (gf : Bool) :
    (s.endStale p acc ses found gf).RingsGood := by
  have hop : s.endOp.RingsGood := h.idle rfl (.of_eq rfl) rfl fun _ _ _ => id
  exact Kept.chooseAfter kept_rings _ ((hop.freeSession_end p ses.window ses.record _).raise _)

theorem State.claimInstall_bus (s : State) (cand : RecordMap) :
    (s.claimInstall cand).rings = s.rings ∧ (s.claimInstall cand).granted = s.granted := by
  unfold State.claimInstall
  repeat' split
  all_goals exact ⟨rfl, rfl⟩

theorem State.applyVerdict_bus (s : State) (ld : Load) (v : Verdict) :
    (s.applyVerdict ld v).rings = s.rings ∧ (s.applyVerdict ld v).granted = s.granted := by
  cases v with
  | fails r => exact ⟨rfl, rfl⟩
  | passes cand => exact State.claimInstall_bus _ cand

theorem State.claimAfterHeader_bus (s : State) (cand : RecordMap) (q : Port) :
    (s.claimAfterHeader cand q).rings = s.rings
      ∧ (s.claimAfterHeader cand q).granted = s.granted := by
  unfold State.claimAfterHeader
  repeat' split
  all_goals exact ⟨rfl, rfl⟩

theorem Op.commit_no_report (p : Port) (b : Bool) (q : Port) : ¬ (Op.commit p b).Reports q := by
  rintro ⟨n, h | h | h⟩ <;> cases h

/-- R121 to R132: every command keeps the rings good. -/
theorem Effect.ringsGood {s t : State} {c : Instr} (heff : Effect s c t) (hh : s.HeldInReset)
    (ho : s.InOrder) (h : s.RingsGood) : t.RingsGood := by
  have hans := fun w ans => h.answered w ans
  cases heff with
  | stays => exact h
  | reset => exact s.afterReset_ringsGood
  | @release _ _ _ hr =>
    refine Kept.arriveBoth kept_rings (fun p => ?_) (h.same (t := s.released _) rfl rfl rfl rfl)
    have he := (hh.emptied hr).engine p
    exact congrArg Engine.estate he
  | strobe | tick | stray => exact h.same rfl rfl rfl rfl
  | ackReleased =>
    cases hg : s.granted with
    | none => exact h.same rfl rfl hg.symm rfl
    | some g => exact h.goesOn hg (Option.map_some ..) rfl rfl rfl fun _ _ => rfl
  | access => exact Kept.present kept_rings _ _ h
  | grant => exact Kept.choose kept_rings (Kept.arbitrate kept_rings h)
  | @word ans g w w' ws hbus =>
    exact h.goesOn hbus.1 rfl (s.answered_lines w ans).map (s.answered_rings w ans)
      (s.answered_engines w ans) fun _ _ => rfl
  | @commitWord _ ans g w rest p acc t ses _ hbus hop =>
    cases rest <;> exact h.goesOn hbus.1 rfl (s.answered_lines w ans).map (s.answered_rings w ans)
      (s.answered_engines w ans) fun q hrep => absurd hrep (Op.commit_no_report p _ q)
  | @single ans g w p acc _ _ _ _ _ _ word =>
    exact (hans w ans).endReady p acc word
  | @count ans g w p q acc t n _ _ hf =>
    refine (hans w ans).takeCount acc ⟨acc, t, .granted, ?_⟩ rfl
    rw [State.answered_engines]
    exact hf
  | @request ans _ _ g w p acc =>
    have hend : ((s.answered w ans).endReady p acc 0).RingsGood :=
      (hans w ans).endReady p acc 0
    split
    · exact hend
    · exact Kept.choose kept_rings
        (State.RingsGood.beginLoad (Kept.grantIf kept_rings _ hend) _ _ _ _)
  | @stampRead ans g w =>
    exact Kept.choose kept_rings (((hans w ans).stageWrite _ _ _ _ _).clearIfLoading _)
  | @stale ans g w rest p acc t ses _ _ _ found =>
    exact (hans w ans).endStale p acc ses found ans.grantFirst
  | @committed ans g w p acc t ses =>
    exact (hans w ans).committed p acc ses
  | @captured ans g w =>
    exact Kept.chooseAfter kept_rings _ (((hans w ans).fillCapture _ _ _ _ _).clearIfLoading _)
  | @entryBurst ans g w q carried hbus hop =>
    obtain ⟨pl, hpl⟩ := Option.isSome_iff_exists.mp (h.named g q hbus.1 ⟨carried, .inl hop⟩)
    have hroom := h.room g q carried hbus.1 hop pl hpl
    have hentries : s.ringEntries q = pl.cap.entries := by simp only [State.ringEntries, hpl]
    have hring : s.rings.get q = (s.answered w ans).rings.get q := by rw [State.answered_rings]
    rw [hentries, hring]
    rw [hring] at hroom
    refine Kept.choose kept_rings
      ((((hans w ans).entered ?_ hroom rfl _ _ _).handled q).evaluateAttention
      q)
    rw [State.ringPlace_of_map (s.answered_lines w ans).map, hpl]
  | @fullRingBurst ans g w q =>
    have hring : s.rings.get q = (s.answered w ans).rings.get q := by rw [State.answered_rings]
    rw [hring]
    exact Kept.choose kept_rings
      (State.RingsGood.handled ((hans w ans).setRing q (by rfl) (by rfl) (by rfl) (by rfl)) q)
  | @lossReport ans g w q =>
    have hring : s.rings.get q = (s.answered w ans).rings.get q := by rw [State.answered_rings]
    rw [hring]
    exact Kept.choose kept_rings ((hans w ans).setRing q rfl rfl rfl rfl)
  | @inProgress ans g w ld _ _ hl =>
    exact (hans w ans).same (State.toPhase_lines _ (by simpa using hl)).map rfl rfl rfl
  | drained hl => exact h.same (State.toPhase_lines _ hl).map rfl rfl rfl
  | @imageRead ans g w ld _ _ hl raw =>
    obtain ⟨hr, hg⟩ := (s.answered w ans).applyVerdict_bus ld (validate s.straps ld.reqN raw)
    exact (hans w ans).same (State.applyVerdict_lines _ (by simpa using hl)).map hr hg
      (State.applyVerdict_engines _ _ _)
  | @header ans g w q ld cand =>
    obtain ⟨hr, hg⟩ := (s.answered w ans).claimAfterHeader_bus cand q
    exact (hans w ans).same (State.claimAfterHeader_lines _ _ _).map hr hg
      (State.claimAfterHeader_engines _ _ _)
  | @done ans order g w ld cand hbus hop hl =>
    refine State.RingsGood.endLoad (State.install_ringsGood cand rfl fun p => ?_) ld order
    rw [State.answered_engines]
    exact ho.unwatching hbus.1 (by rw [hop]; rfl) (State.isLoading_of_loading hl) p
  | @failed ans order g w ld _ _ hl =>
    refine (Kept.grantIf kept_rings _ (hans w ans)).endFailed order ?_
    rw [State.grantIf_work]
    simpa using hl
  | @failedLate order g w rest ld _ _ hl =>
    refine (Kept.grantIf kept_rings _ (h.expired w)).endFailed order ?_
    rw [State.grantIf_work]
    exact (s.expired_part w).trans hl
  | expires => exact (h.expired _).expire _ _ _
  | hold hx => exact Kept.choose kept_rings ((Kept.hold kept_rings hx h).raise _)
  | session hx => exact Kept.choose kept_rings ((Kept.session kept_rings hx h).raise _)
  | @captureLimit p w k =>
    refine h.even rfl (.of_eq rfl) (fun g' hg' _ _ => ⟨g', hg', rfl⟩) fun x q n hw => ?_
    unfold State.Watches at *
    rw [State.freeCapture_eq, State.withPort_engines] at hw
    by_cases hx : x = p
    · subst hx
      rwa [Both.get_set_self] at hw
    · rwa [Both.get_set_ne _ _ hx] at hw

/-- Settles O59: each command's effect keeps the rings good, given the claims in order. -/
theorem stepKeepsRingsWithinCapacity : Obligations.StepKeepsRingsWithinCapacity := by
  intro s t hwithin hcounts hnamed hagree hquiet hh hstep
  have hgood := (State.ringsGood_iff s).mpr ⟨hwithin, hcounts, hnamed⟩
  have hkeep : t.RingsGood :=
    step_keeps (P := fun v => v.RingsGood ∧ v.InOrder ∧ v.HeldInReset) (Q := State.RingsGood)
      hstep
      (fun rest h => ⟨h.1.same rfl rfl rfl rfl, h.2.1.same rfl rfl rfl, h.2.2.pending rest⟩)
      (fun h => h.1) (fun e h => e.ringsGood h.2.2 h.2.1 h.1) ⟨hgood, ⟨hagree, hquiet⟩, hh⟩
  exact (State.ringsGood_iff t).mp hkeep

end Sys2Proof.Machine
end

section
/-! PROOFS. The element map of a layout entry (R22 to R24): the elements of the runs, cut into word
patterns. -/

namespace Sys2Proof.Machine

/-! ## Word patterns by their widths -/

theorem patternOf_iff {l : List Nat} {pat : Pattern} : patternOf l = some pat ↔ l = pat.widths := by
  constructor
  · intro h
    unfold patternOf at h
    split at h <;> cases h <;> rfl
  · rintro rfl
    cases pat <;> rfl

/-- An element width: 1, 2 or 4 bytes. -/
def IsWidth (w : Nat) : Prop := w = 1 ∨ w = 2 ∨ w = 4

theorem IsWidth.pos {w : Nat} (h : IsWidth w) : 0 < w := by
  obtain rfl | rfl | rfl := h <;> decide

/-- Elements that fill a word make one of the six patterns (R23). -/
theorem exists_pattern {l : List Nat} (hl : ∀ w ∈ l, IsWidth w) (hsum : l.sum = 4) :
    ∃ pat : Pattern, l = pat.widths := by
  have hcases : l ∈ [[4], [2, 2], [2, 1, 1], [1, 2, 1], [1, 1, 2], [1, 1, 1, 1]] := by
    match l with
    | [] => cases hsum
    | [a] => simp_all
    | [a, b] =>
      simp only [List.mem_cons, forall_eq_or_imp, List.not_mem_nil, false_imp_iff, implies_true,
        and_true, List.sum_cons, List.sum_nil] at hl hsum
      obtain ⟨rfl | rfl | rfl, rfl | rfl | rfl⟩ := hl <;> simp_all
    | [a, b, c] =>
      simp only [List.mem_cons, forall_eq_or_imp, List.not_mem_nil, false_imp_iff, implies_true,
        and_true, List.sum_cons, List.sum_nil] at hl hsum
      obtain ⟨rfl | rfl | rfl, rfl | rfl | rfl, rfl | rfl | rfl⟩ := hl <;> simp_all
    | a :: b :: c :: d :: rest =>
      simp only [List.mem_cons, forall_eq_or_imp, List.sum_cons] at hl hsum
      obtain ⟨ha, hb, hc, hd, hrest⟩ := hl
      have := ha.pos
      have := hb.pos
      have := hc.pos
      have := hd.pos
      obtain ⟨rfl, rfl, rfl, rfl, h0⟩ : a = 1 ∧ b = 1 ∧ c = 1 ∧ d = 1 ∧ rest.sum = 0 := by omega
      cases rest with
      | nil => simp
      | cons e es =>
        have := (hrest e (List.mem_cons_self ..)).pos
        simp only [List.sum_cons] at h0
        omega
  simp only [List.mem_cons, List.not_mem_nil, or_false] at hcases
  obtain rfl | rfl | rfl | rfl | rfl | rfl := hcases
  · exact ⟨.p4, rfl⟩
  · exact ⟨.p22, rfl⟩
  · exact ⟨.p211, rfl⟩
  · exact ⟨.p121, rfl⟩
  · exact ⟨.p112, rfl⟩
  · exact ⟨.p1111, rfl⟩

/-! ## Cutting elements into words -/

/-- No element straddles a word boundary, the first word being filled to `used` already (R24). -/
def FitsWords (used : Nat) (ws : List Nat) : Prop :=
  ∀ before w after, ws = before ++ w :: after → (used + before.sum) % 4 + w ≤ 4

theorem fitsWords_cons {used w : Nat} {ws : List Nat} (hused : used < 4) :
    FitsWords used (w :: ws) ↔ used + w ≤ 4 ∧ FitsWords ((used + w) % 4) ws := by
  constructor
  · intro h
    refine ⟨by simpa [Nat.mod_eq_of_lt hused] using h [] w ws rfl, fun before x after heq => ?_⟩
    have := h (w :: before) x after (by rw [heq]; rfl)
    rwa [List.sum_cons, ← Nat.add_assoc, ← Nat.mod_add_mod] at this
  · rintro ⟨hw, h⟩ before x after heq
    cases before with
    | nil =>
      obtain ⟨rfl, rfl⟩ := List.cons.inj heq
      simpa [Nat.mod_eq_of_lt hused] using hw
    | cons y ys =>
      obtain ⟨rfl, rfl⟩ := List.cons.inj heq
      rw [List.sum_cons, ← Nat.add_assoc, ← Nat.mod_add_mod]
      exact h ys x after rfl

/-- The word patterns that the elements are cut into hold them in their order, and fill their words. -/
theorem cutWords_some {ws open_ : List Nat} {used : Nat} {pats : List Pattern}
    (hopen : open_.sum = used) (h : cutWords ws open_ used = some pats) :
    pats.flatMap Pattern.widths = open_ ++ ws ∧ 4 * pats.length = used + ws.sum := by
  induction ws generalizing open_ used pats with
  | nil =>
    unfold cutWords at h
    split at h
    next hnil =>
      subst hnil
      cases h
      exact ⟨rfl, by simpa using hopen⟩
    · cases h
  | cons w ws ih =>
    have hsum : (open_ ++ [w]).sum = used + w := by simp [hopen]
    unfold cutWords at h
    split at h
    · obtain ⟨h1, h2⟩ := ih hsum h
      exact ⟨by simpa using h1, by simp only [h2, List.sum_cons]; omega⟩
    · split at h
      next hfull =>
        split at h
        next pat rest hpat hrest =>
          cases h
          obtain ⟨h1, h2⟩ := ih (open_ := []) (used := 0) rfl hrest
          rw [patternOf_iff] at hpat
          refine ⟨?_, ?_⟩
          · rw [List.flatMap_cons, h1, ← hpat, List.nil_append, List.append_assoc]
            rfl
          · simp only [List.length_cons, List.sum_cons]
            omega
        · cases h
      · cases h

/-- The elements are cut into word patterns if none straddles a word boundary and the last word is
filled (R24). -/
theorem cutWords_isSome {ws open_ : List Nat} {used : Nat} (hopen : open_.sum = used)
    (hused : used < 4) (hwidths : ∀ w ∈ open_ ++ ws, IsWidth w) (hdvd : (used + ws.sum) % 4 = 0) :
    (cutWords ws open_ used).isSome = true ↔ FitsWords used ws := by
  induction ws generalizing open_ used with
  | nil =>
    have hzero : used = 0 := by simpa [Nat.mod_eq_of_lt hused] using hdvd
    have hnil : open_ = [] := by
      cases open_ with
      | nil => rfl
      | cons x xs =>
        have := (hwidths x (by simp)).pos
        simp only [List.sum_cons] at hopen
        omega
    subst hnil
    refine iff_of_true rfl fun before w after heq => ?_
    cases before <;> cases heq
  | cons w ws ih =>
    have hsum : (open_ ++ [w]).sum = used + w := by simp [hopen]
    have hw : ∀ x ∈ (open_ ++ [w]) ++ ws, IsWidth x := by simpa using hwidths
    have hrest : ∀ x ∈ [] ++ ws, IsWidth x := fun x hx => hwidths x (by simp_all)
    rw [List.sum_cons, ← Nat.add_assoc] at hdvd
    rw [fitsWords_cons hused]
    unfold cutWords
    split
    next hlt =>
      rw [ih hsum hlt hw hdvd, Nat.mod_eq_of_lt hlt]
      exact ⟨fun h => ⟨hlt.le, h⟩, fun h => h.2⟩
    next hge =>
      split
      next hfull =>
        obtain ⟨pat, hpat⟩ := exists_pattern (l := open_ ++ [w])
          (fun x hx => hw x (List.mem_append_left _ hx)) (hsum.trans hfull)
        rw [hfull] at hdvd ⊢
        have hih := ih (open_ := []) (used := 0) rfl (by decide) hrest (by omega)
        rw [patternOf_iff.mpr hpat, Nat.mod_self, ← hih]
        cases cutWords ws [] 0 with
        | none => simp
        | some rest => simp
      next hne => exact iff_of_false nofun fun h => by omega

/-! ## The elements of runs -/

theorem runElements_eq (rs : List Run) :
    runElements rs = rs.flatMap fun r => List.replicate r.count r.width := by
  induction rs with
  | nil => rfl
  | cons r rs ih => rw [runElements, ih, List.flatMap_cons]

/-- The bytes of the runs are the widths of their elements together. -/
theorem runBytes_eq (rs : List Run) : runBytes rs = (runElements rs).sum := by
  induction rs with
  | nil => rfl
  | cons r rs ih =>
    rw [runBytes, runElements, List.sum_append, ih, List.sum_replicate, smul_eq_mul, Nat.mul_comm]

/-- A run byte describes its elements (R177). -/
theorem runOf_elements (b : Nat) :
    List.replicate (runOf b).count (runOf b).width = runWidths b := by
  unfold runOf runWidths
  dsimp only
  generalize b / 64 = code
  match code with
  | 0 => rfl
  | 1 => rfl
  | 2 => rfl
  | _ + 3 => rfl

theorem runWidths_isWidth (b : Nat) : ∀ w ∈ runWidths b, IsWidth w := by
  intro w hw
  unfold runWidths at hw
  split at hw <;> obtain rfl := List.eq_of_mem_replicate hw
  · exact .inl rfl
  · exact .inl rfl
  · exact .inr (.inl rfl)
  · exact .inr (.inr rfl)

end Sys2Proof.Machine
end

section
/-! PROOFS. The fields and entries of a configuration image (R151, R153, R154, R175 to R177): each entry
of the map is that of the image, and which entries a test admits. -/

namespace Sys2Proof.Machine

/-! ## Fields -/

theorem imageField_eq (ws : List Word) (i lo len : Nat) :
    imageField ws i lo len = imageBits ws i lo len := by
  rw [imageField, bits, BitVec.extractLsb'_toNat, Nat.shiftRight_eq_div_pow, imageBits]

theorem extractLsb'_toNat_eq (ws : List Word) (i lo len : Nat) :
    ((ws.getD i 0).extractLsb' lo len).toNat = imageBits ws i lo len := imageField_eq ws i lo len

theorem imageBits_lt (ws : List Word) (i lo len : Nat) : imageBits ws i lo len < 2 ^ len :=
  Nat.mod_lt _ (Nat.two_pow_pos len)

theorem ofNat_imageBits (ws : List Word) (i lo len : Nat) :
    (BitVec.ofNat len (imageBits ws i lo len)).toNat = imageBits ws i lo len := by
  rw [BitVec.toNat_ofNat, Nat.mod_eq_of_lt (imageBits_lt ws i lo len)]

/-- A single bit is set exactly if it is 1. -/
theorem beq_one_iff (n : Nat) : (n == 1) = true ↔ n = 1 := beq_iff_eq

/-! ## Codes -/

theorem orderOf_iff {n : Nat} {o : ByteOrder} :
    orderOf n = some o ↔ n = (match o with | .little => 0 | .big => 1) := by
  unfold orderOf
  split <;> cases o <;> simp_all

theorem unmappedOf_iff {n : Nat} {u : UnmappedPolicy} :
    unmappedOf n = some u ↔ n = (match u with | .pass => 0 | .readOnly => 1 | .refuse => 2) := by
  unfold unmappedOf
  split <;> cases u <;> simp_all

theorem rightsOf_iff {n : Nat} {r : Rights} : rightsOf n = some r ↔ n = rightsCode r := by
  unfold rightsOf
  split <;> cases r <;> simp_all [rightsCode]

theorem modeOf_iff {n : Nat} {m : Mode} :
    modeOf n = some m ↔ n = (match m with | .full => 0 | .close => 1) := by
  unfold modeOf
  split <;> cases m <;> simp_all

theorem policyOf_iff {n : Nat} {x : Policy} :
    policyOf n = some x ↔ n = (match x with | .last => 0 | .guarded => 1) := by
  unfold policyOf
  split <;> cases x <;> simp_all

theorem widthOf_iff {n : Nat} {x : ElementWidth} :
    widthOf n = some x ↔ n = (match x with | .one => 1 | .two => 2 | .four => 4) := by
  unfold widthOf
  split <;> cases x <;> simp_all

theorem orderOf_isSome {n : Nat} : (∃ o, orderOf n = some o) ↔ n ≤ 1 := by
  unfold orderOf
  split <;> simp_all
  omega

theorem unmappedOf_isSome {n : Nat} : (∃ u, unmappedOf n = some u) ↔ n ≤ 2 := by
  unfold unmappedOf
  split <;> simp_all
  omega

theorem rightsOf_isSome {n : Nat} : (∃ r, rightsOf n = some r) ↔ n ≤ 2 := by
  unfold rightsOf
  split <;> simp_all
  omega

theorem modeOf_isSome {n : Nat} : (∃ m, modeOf n = some m) ↔ n ≤ 1 := by
  unfold modeOf
  split <;> simp_all
  omega

theorem policyOf_isSome {n : Nat} : (∃ x, policyOf n = some x) ↔ n ≤ 1 := by
  unfold policyOf
  split <;> simp_all
  omega

theorem widthOf_isSome {n : Nat} : (∃ x, widthOf n = some x) ↔ n ∈ [1, 2, 4] := by
  unfold widthOf
  split <;> simp_all

/-! ## Settings words -/

theorem settingsOf_some {ws : List Word} {i : Nat} {x : PortSettings} :
    settingsOf ws i = some x → SettingsFrom ws i x ∧ x.thresh ≤ 4 := by
  unfold settingsOf
  simp only [imageField_eq]
  intro h
  split at h
  next o u ho hu =>
    split at h
    next hle =>
      cases h
      exact ⟨⟨orderOf_iff.mp ho, unmappedOf_iff.mp hu, rfl, beq_one_iff _⟩, hle⟩
    · cases h
  · cases h

theorem settingsOf_isSome {ws : List Word} {i : Nat} :
    (∃ x, settingsOf ws i = some x)
      ↔ imageBits ws i 0 2 ≤ 1 ∧ imageBits ws i 2 2 ≤ 2 ∧ imageBits ws i 4 3 ≤ 4 := by
  rw [← orderOf_isSome, ← unmappedOf_isSome]
  unfold settingsOf
  simp only [imageField_eq]
  split
  next o u ho hu => 
    split
    next hle => exact iff_of_true ⟨_, rfl⟩ ⟨⟨o, ho⟩, ⟨u, hu⟩, hle⟩
    next hle => exact iff_of_false nofun fun h => hle h.2.2
  next hno =>
    refine iff_of_false nofun ?_
    rintro ⟨⟨o, ho⟩, ⟨u, hu⟩, -⟩
    exact hno o u ho hu

/-! ## Entries of a table, one after another -/

/-- `n` entries read one after another, `stride` words apart; `none` if one cannot be read. -/
def entriesOf {α : Type} (read : Nat → Option α) (stride i : Nat) : Nat → Option (List α)
  | 0 => some []
  | n + 1 =>
    match read i, entriesOf read stride (i + stride) n with
    | some x, some rest => some (x :: rest)
    | _, _ => none

theorem windowsOf_eq (ws : List Word) (i n : Nat) :
    windowsOf ws i n = entriesOf (windowOf ws) 4 i n := by
  induction n generalizing i with
  | zero => rfl
  | succ n ih => 
    rw [windowsOf, entriesOf, ih]
    cases windowOf ws i <;> cases entriesOf (windowOf ws) 4 (i + 4) n <;> rfl

theorem layoutsOf_eq (ws : List Word) (i n : Nat) :
    layoutsOf ws i n = entriesOf (layoutOf ws) 5 i n := by
  induction n generalizing i with
  | zero => rfl
  | succ n ih =>
    rw [layoutsOf, entriesOf, ih]
    cases layoutOf ws i <;> cases entriesOf (layoutOf ws) 5 (i + 5) n <;> rfl

section
variable {α : Type} {read : Nat → Option α} {stride : Nat}

theorem entriesOf_some {i n : Nat} {l : List α} (h : entriesOf read stride i n = some l) :
    l.length = n ∧ ∀ k x, l[k]? = some x → read (i + stride * k) = some x := by
  induction n generalizing i l with
  | zero =>
    cases h
    exact ⟨rfl, nofun⟩
  | succ n ih =>
    unfold entriesOf at h
    split at h
    next x rest hx hrest =>
      cases h
      obtain ⟨hlen, hget⟩ := ih hrest
      refine ⟨by rw [List.length_cons, hlen], fun k y hy => ?_⟩
      cases k with
      | zero =>
        cases hy
        exact hx
      | succ k =>
        have := hget k y hy
        rwa [Nat.add_assoc, Nat.add_comm stride, ← Nat.mul_succ] at this
    · cases h

theorem entriesOf_isSome {i n : Nat} :
    (∃ l, entriesOf read stride i n = some l) ↔ ∀ k < n, ∃ x, read (i + stride * k) = some x := by
  induction n generalizing i with
  | zero => exact iff_of_true ⟨[], rfl⟩ nofun
  | succ n ih =>
    have below : ∀ k, i + stride + stride * k = i + stride * (k + 1) := fun k => by
      rw [Nat.add_assoc, Nat.add_comm stride, ← Nat.mul_succ]
    constructor
    · rintro ⟨l, hl⟩ k hk
      obtain ⟨hlen, hget⟩ := entriesOf_some hl
      exact ⟨l[k]'(hlen ▸ hk), hget k _ (List.getElem?_eq_getElem (hlen ▸ hk))⟩
    · intro h
      obtain ⟨x, hx⟩ := h 0 (Nat.zero_lt_succ n)
      obtain ⟨rest, hrest⟩ := ih.mpr fun k hk => by
        rw [below]
        exact h (k + 1) (Nat.succ_lt_succ hk)
      exact ⟨x :: rest, by rw [entriesOf, show read i = some x from hx, hrest]⟩

end

end Sys2Proof.Machine
end

section
/-! PROOFS. The entries of a configuration image (R151, R153, R154, R175 to R177): what an entry that
passes its test holds, and which entries pass. -/

namespace Sys2Proof.Machine

section
variable {ws : List Word} {i : Nat}

/-! ## Window entries -/

/-- What the RANGE test finds of a window (R3, R4). -/
def Window.Ranged (w : Window) : Prop :=
  (withinSpace w.base w.extent ∧ 0 < w.extent)
    ∧ ∀ spec, w.kind = .record spec →
        2 ≤ spec.reclen ∧ spec.reclen ≤ 32 ∧ 1 ≤ spec.reccnt ∧ spec.reccnt ≤ 4096

theorem withinMemory_iff {base words : Nat} :
    withinMemory base words = true ↔ base + words ≤ 1048576 := by
  rw [withinMemory, decide_eq_true_iff]

/-- A window's kind fields are those of the entry at image word `i` (spec/10). -/
def WindowKind.From (ws : List Word) (i : Nat) (x : WindowKind) : Prop :=
  let f := fun k => imageBits ws (i + k)
  match x with
  | .plain span ew =>
    f 0 20 2 = 0 ∧ span = f 3 0 21
      ∧ f 1 16 3 = (match ew with | .one => 1 | .two => 2 | .four => 4)
  | .record spec =>
    f 0 20 2 = 1 ∧ spec.reclen = f 2 0 6 ∧ spec.reccnt = f 2 16 13
      ∧ f 1 4 2 = (match spec.mode with | .full => 0 | .close => 1)
      ∧ f 1 6 2 = (match spec.policy with | .last => 0 | .guarded => 1)
      ∧ (spec.stamp = true ↔ f 1 8 1 = 1) ∧ (spec.check = true ↔ f 1 9 1 = 1)
      ∧ spec.layout = f 1 10 4

theorem windowFrom_of_kind {x : Window} (hbase : x.base.toNat = imageBits ws i 0 20)
    (ha : imageBits ws (i + 1) 0 2 = rightsCode x.rights.a)
    (hb : imageBits ws (i + 1) 2 2 = rightsCode x.rights.b) (hkind : x.kind.From ws i) :
    WindowFrom ws i x := by
  obtain ⟨base, kind, rights⟩ := x
  cases kind <;> exact ⟨hbase, ha, hb, hkind⟩

/-- What the RANGE test finds of the kind fields of a window at a base (R3, R4). -/
def WindowKind.Ranged (base : Nat) : WindowKind → Prop
  | .plain span _ => 0 < span ∧ base + span ≤ 1048576
  | .record spec =>
    2 ≤ spec.reclen ∧ spec.reclen ≤ 32 ∧ 1 ≤ spec.reccnt ∧ spec.reccnt ≤ 4096
      ∧ base + spec.reclen * spec.reccnt ≤ 1048576

theorem Window.ranged_of_kind {x : Window} (h : x.kind.Ranged x.base.toNat) : x.Ranged := by
  unfold WindowKind.Ranged at h
  unfold Window.Ranged Window.extent withinSpace
  split at h
  next span ew hk =>
    rw [hk]
    exact ⟨⟨h.2, h.1⟩, nofun⟩
  next spec hk =>
    rw [hk]
    obtain ⟨hlen, hlen', hcnt, hcnt', hspace⟩ := h
    refine ⟨⟨hspace, Nat.mul_pos (by omega) hcnt⟩, ?_⟩
    rintro _ ⟨⟩
    exact ⟨hlen, hlen', hcnt, hcnt'⟩

theorem plainKindOf_some {base : Nat} {k : WindowKind} (hkind : imageBits ws i 20 2 = 0)
    (h : plainKindOf ws i base = some k) : k.From ws i ∧ k.Ranged base := by
  unfold plainKindOf at h
  simp only [imageField_eq, withinMemory_iff] at h
  split at h
  · cases h
  next ew hew =>
    split at h
    next hspan =>
      cases h
      exact ⟨⟨hkind, rfl, widthOf_iff.mp hew⟩, hspan.1, hspan.2.2⟩
    · cases h

theorem plainKindOf_isSome {base : Nat} :
    (∃ k, plainKindOf ws i base = some k)
      ↔ imageBits ws (i + 1) 16 3 ∈ [1, 2, 4] ∧ 1 ≤ imageBits ws (i + 3) 0 21
        ∧ imageBits ws (i + 3) 0 21 ≤ 1048576 ∧ base + imageBits ws (i + 3) 0 21 ≤ 1048576 := by
  rw [← widthOf_isSome]
  unfold plainKindOf
  simp only [imageField_eq, withinMemory_iff]
  split
  next hnone =>
    refine iff_of_false nofun ?_
    rintro ⟨⟨ew, hew⟩, -⟩
    cases hnone.symm.trans hew
  next ew hew =>
    split
    next h => exact iff_of_true ⟨_, rfl⟩ ⟨⟨ew, hew⟩, h⟩
    next h => exact iff_of_false nofun fun h' => h h'.2

theorem recordKindOf_some {base : Nat} {k : WindowKind} (hkind : imageBits ws i 20 2 = 1)
    (h : recordKindOf ws i base = some k) : k.From ws i ∧ k.Ranged base := by
  unfold recordKindOf at h
  simp only [imageField_eq, withinMemory_iff] at h
  split at h
  next mode policy hmode hpolicy =>
    split at h
    next hlen =>
      cases h
      exact ⟨⟨hkind, rfl, rfl, modeOf_iff.mp hmode, policyOf_iff.mp hpolicy, beq_one_iff _,
        beq_one_iff _, rfl⟩, hlen⟩
    · cases h
  · cases h

theorem recordKindOf_isSome {base : Nat} :
    (∃ k, recordKindOf ws i base = some k)
      ↔ imageBits ws (i + 1) 4 2 ≤ 1 ∧ imageBits ws (i + 1) 6 2 ≤ 1 ∧ 2 ≤ imageBits ws (i + 2) 0 6
        ∧ imageBits ws (i + 2) 0 6 ≤ 32 ∧ 1 ≤ imageBits ws (i + 2) 16 13
        ∧ imageBits ws (i + 2) 16 13 ≤ 4096
        ∧ base + imageBits ws (i + 2) 0 6 * imageBits ws (i + 2) 16 13 ≤ 1048576 := by
  rw [← modeOf_isSome, ← policyOf_isSome]
  unfold recordKindOf
  simp only [imageField_eq, withinMemory_iff]
  split
  next mode policy hmode hpolicy =>
    split
    next h => exact iff_of_true ⟨_, rfl⟩ ⟨⟨mode, hmode⟩, ⟨policy, hpolicy⟩, h⟩
    next h => exact iff_of_false nofun fun h' => h h'.2.2
  next hno =>
    refine iff_of_false nofun ?_
    rintro ⟨⟨mode, hmode⟩, ⟨policy, hpolicy⟩, -⟩
    exact hno mode policy hmode hpolicy

theorem windowKindOf_some {k : WindowKind} (h : windowKindOf ws i = some k) :
    k.From ws i ∧ k.Ranged (imageBits ws i 0 20) := by
  unfold windowKindOf at h
  simp only [imageField_eq] at h
  split at h
  next hk => exact plainKindOf_some hk h
  next hk => exact recordKindOf_some hk h
  · cases h

theorem windowOf_some {x : Window} (h : windowOf ws i = some x) : WindowFrom ws i x ∧ x.Ranged := by
  unfold windowOf at h
  simp only [imageField_eq] at h
  split at h
  next kind ra rb hkind hra hrb =>
    cases h
    obtain ⟨hfrom, hranged⟩ := windowKindOf_some hkind
    have hbase := ofNat_imageBits ws i 0 20
    exact ⟨windowFrom_of_kind hbase (rightsOf_iff.mp hra) (rightsOf_iff.mp hrb) hfrom,
      Window.ranged_of_kind (by rw [hbase]; exact hranged)⟩
  · cases h

/-- A window entry can be read exactly if it passes the RANGE test (R153). -/
theorem windowOf_isSome : (∃ x, windowOf ws i = some x) ↔ EntryRange ws i := by
  have hsplit : (∃ x, windowOf ws i = some x)
      ↔ (∃ k, windowKindOf ws i = some k) ∧ (∃ r, rightsOf (imageBits ws (i + 1) 0 2) = some r)
        ∧ ∃ r, rightsOf (imageBits ws (i + 1) 2 2) = some r := by
    unfold windowOf
    simp only [imageField_eq]
    split
    next kind ra rb hkind hra hrb => exact iff_of_true ⟨_, rfl⟩ ⟨⟨_, hkind⟩, ⟨_, hra⟩, ⟨_, hrb⟩⟩
    next hno =>
      refine iff_of_false nofun ?_
      rintro ⟨⟨k, hk⟩, ⟨ra, hra⟩, ⟨rb, hrb⟩⟩
      exact hno k ra rb hk hra hrb
  have hkind : (∃ k, windowKindOf ws i = some k)
      ↔ (imageBits ws i 20 2 = 0 ∧ ∃ k, plainKindOf ws i (imageBits ws i 0 20) = some k)
        ∨ (imageBits ws i 20 2 = 1 ∧ ∃ k, recordKindOf ws i (imageBits ws i 0 20) = some k) := by
    unfold windowKindOf
    simp only [imageField_eq]
    split
    next h => simp [h]
    next h => simp [h]
    next h0 h1 => exact iff_of_false nofun fun h => h.elim (fun h => h0 h.1) fun h => h1 h.1
  rw [hsplit, hkind, rightsOf_isSome, rightsOf_isSome, plainKindOf_isSome, recordKindOf_isSome]
  exact ⟨fun ⟨hk, ha, hb⟩ => ⟨ha, hb, hk⟩, fun ⟨ha, hb, hk⟩ => ⟨hk, ha, hb⟩⟩

/-! ## Layout entries -/

/-- The runs of the layout entry at image word `i`. -/
def entryRuns (ws : List Word) (i : Nat) : List Run :=
  (List.range (imageBits ws i 0 5)).map (runAt ws i)

theorem entryRuns_elements : runElements (entryRuns ws i) = entryWidths ws i := by
  rw [runElements_eq, entryRuns, entryWidths, List.flatMap_map]
  congr 1
  funext k
  rw [runAt, imageField_eq, runOf_elements]

theorem entryWidths_isWidth : ∀ w ∈ entryWidths ws i, IsWidth w := by
  intro w hw
  obtain ⟨k, -, hk⟩ := List.mem_flatMap.mp hw
  exact runWidths_isWidth _ w hk

theorem layoutOf_some {x : Layout} (h : layoutOf ws i = some x) : LayoutFrom ws i x := by
  unfold layoutOf at h
  simp only [imageField_eq] at h
  split at h
  next hbounds =>
    split at h
    next hbytes =>
      split at h
      next pats hpats =>
        cases h
        change runBytes (entryRuns ws i) = _ at hbytes
        change cutWords (runElements (entryRuns ws i)) [] 0 = _ at hpats
        obtain ⟨hwidths, hlen⟩ := cutWords_some rfl hpats
        rw [entryRuns_elements, List.nil_append] at hwidths
        refine ⟨rfl, by simp, fun k r hr => ?_, hwidths, ?_⟩
        · obtain ⟨j, hj, hjr⟩ := List.getElem?_map .. ▸ hr |> Option.map_eq_some_iff.mp
          obtain ⟨hlt, rfl⟩ := List.getElem?_eq_some_iff.mp hj
          rw [← hjr, List.getElem_range, runAt, imageField_eq, runOf_elements]
        · rw [hlen, List.sum_nil, Nat.zero_add, ← runBytes_eq, hbytes]
      · cases h
    · cases h
  · cases h

/-- A layout entry can be read exactly if it passes the LAYOUT test (R24, R177). -/
theorem layoutOf_isSome : (∃ x, layoutOf ws i = some x) ↔ EntryLayout ws i := by
  have hruns : (List.range (imageBits ws i 0 5)).map (runAt ws i) = entryRuns ws i := rfl
  unfold layoutOf EntryLayout
  simp only [imageField_eq, hruns, runBytes_eq, entryRuns_elements]
  split
  next hbounds =>
    obtain ⟨h1, h2, h3, h4, h5⟩ := hbounds
    split
    next hsum =>
      have hcut := cutWords_isSome (ws := entryWidths ws i) (open_ := []) (used := 0) rfl (by decide)
        (by simpa using entryWidths_isWidth) (by omega)
      unfold FitsWords at hcut
      simp only [Nat.zero_add] at hcut
      split
      next pats hpats =>
        rw [hpats] at hcut
        exact iff_of_true ⟨_, rfl⟩ ⟨h1, h2, h3, h4, h5, hsum, hcut.mp rfl⟩
      next hnone =>
        rw [hnone] at hcut
        exact iff_of_false nofun fun h => nomatch hcut.mpr h.2.2.2.2.2.2
    next hsum => exact iff_of_false nofun fun h => hsum h.2.2.2.2.2.1
  next hbounds =>
    exact iff_of_false nofun fun ⟨h1, h2, h3, h4, h5, _⟩ => hbounds ⟨h1, h2, h3, h4, h5⟩

/-! ## Rings -/

theorem capacityOf_some {n : Nat} {c : Capacity} :
    capacityOf n = some (some c) → n ≠ 0 ∧ n ≤ 6 ∧ c.entries = 2 ^ (n + 2) := by
  unfold capacityOf
  split <;> rintro ⟨⟩ <;> decide

theorem capacityOf_none {n : Nat} : capacityOf n = some none ↔ n = 0 := by
  unfold capacityOf
  split <;> simp_all

theorem capacityOf_unknown {n : Nat} : capacityOf n = none ↔ 6 < n := by
  unfold capacityOf
  split <;> simp_all
  omega

theorem ringOf_some {x : Option RingPlace} (h : ringOf ws i = some x) :
    RingFrom ws i x ∧ ∀ pl, x = some pl → withinSpace pl.base pl.cap.regionWords := by
  unfold ringOf at h
  simp only [imageField_eq, withinMemory_iff] at h
  split at h
  · cases h
  next hnone =>
    cases h
    exact ⟨⟨iff_of_true (capacityOf_none.mp hnone) rfl, nofun⟩, nofun⟩
  next cap hcap =>
    split at h
    next hspace =>
      cases h
      obtain ⟨hne, -, hentries⟩ := capacityOf_some hcap
      have hbase := ofNat_imageBits ws i 0 20
      refine ⟨⟨iff_of_false hne nofun, ?_⟩, ?_⟩
      · rintro _ ⟨⟩
        exact ⟨hbase, hentries⟩
      · rintro _ ⟨⟩
        unfold withinSpace
        rwa [hbase]
    · cases h

/-- A ring can be read exactly if it passes the RING test (R154). -/
theorem ringOf_isSome :
    (∃ x, ringOf ws i = some x)
      ↔ imageBits ws (i + 1) 0 4 ≤ 6
        ∧ (imageBits ws (i + 1) 0 4 ≠ 0 →
            imageBits ws i 0 20 + 2 + 4 * 2 ^ (imageBits ws (i + 1) 0 4 + 2) ≤ 1048576) := by
  unfold ringOf
  simp only [imageField_eq, withinMemory_iff]
  split
  next hunknown =>
    exact iff_of_false nofun fun h => absurd h.1 (Nat.not_le.mpr (capacityOf_unknown.mp hunknown))
  next hnone =>
    have := capacityOf_none.mp hnone
    exact iff_of_true ⟨_, rfl⟩ ⟨by omega, fun h => absurd this h⟩
  next cap hcap =>
    obtain ⟨hne, hle, hentries⟩ := capacityOf_some hcap
    rw [Capacity.regionWords, hentries, ← Nat.add_assoc]
    split
    next h => exact iff_of_true ⟨_, rfl⟩ ⟨hle, fun _ => h⟩
    next h => exact iff_of_false nofun fun h' => h (h'.2 hne)

end

end Sys2Proof.Machine
end

section
/-! PROOFS. Settles O42: the tests of a configuration image in their order (R150 to R155), and the map
that passes. -/

namespace Sys2Proof.Machine

section
variable {ws : List Word}

/-! ## FORMAT -/

/-- The FORMAT test reads the version, the table sizes, the limits, and both settings words. -/
theorem imageFormat_iff :
    ImageFormat ws ↔ formatHolds ws = true ∧ (∃ x, settingsOf ws 4 = some x)
      ∧ ∃ x, settingsOf ws 5 = some x := by
  rw [settingsOf_isSome, settingsOf_isSome, ImageFormat, formatHolds, imageWindows, imageLayouts]
  simp only [imageField_eq, Bool.and_eq_true, beq_iff_eq, decide_eq_true_eq, bne_iff_ne,
    List.mem_cons, List.not_mem_nil, or_false, forall_eq_or_imp, forall_eq]
  tauto

theorem validateWords_of_not_format {ib : WAddr} {n : Nat} {raw : List Word}
    (h : ¬ ImageFormat ws) : validateWords ib n raw ws = .fails .format := by
  unfold validateWords
  split
  next sa sb hf ha hb => exact absurd (imageFormat_iff.mpr ⟨hf, ⟨sa, ha⟩, ⟨sb, hb⟩⟩) h
  · rfl

/-! ## The entries -/

theorem windowsOf_some {windows : List Window} (h : windowsOf ws 13 (imageWindows ws) = some windows) :
    windows.length = imageBits ws 2 8 8
      ∧ ∀ k x, windows[k]? = some x → WindowFrom ws (13 + 4 * k) x ∧ x.Ranged := by
  rw [windowsOf_eq] at h
  obtain ⟨hlen, hget⟩ := entriesOf_some h
  exact ⟨hlen.trans (imageField_eq ..), fun k x hx => windowOf_some (hget k x hx)⟩

theorem windowsOf_isSome : (∃ l, windowsOf ws 13 (imageWindows ws) = some l) ↔ ImageRange ws := by
  rw [windowsOf_eq, entriesOf_isSome, imageWindows, imageField_eq, ImageRange]
  simp only [windowOf_isSome]

theorem layoutsOf_some {layouts : List Layout}
    (h : layoutsOf ws (13 + 4 * imageWindows ws) (imageLayouts ws) = some layouts) :
    layouts.length = imageBits ws 2 16 8
      ∧ ∀ j x, layouts[j]? = some x → LayoutFrom ws (13 + 4 * imageBits ws 2 8 8 + 5 * j) x := by
  rw [layoutsOf_eq, imageWindows, imageField_eq] at h
  obtain ⟨hlen, hget⟩ := entriesOf_some h
  exact ⟨hlen.trans (imageField_eq ..), fun j x hx => layoutOf_some (hget j x hx)⟩

theorem layoutsOf_isSome :
    (∃ l, layoutsOf ws (13 + 4 * imageWindows ws) (imageLayouts ws) = some l)
      ↔ ∀ j < imageBits ws 2 16 8, EntryLayout ws (13 + 4 * imageBits ws 2 8 8 + 5 * j) := by
  rw [layoutsOf_eq, entriesOf_isSome, imageWindows, imageLayouts, imageField_eq, imageField_eq]
  simp only [layoutOf_isSome]

/-! ## LAYOUT and POLICY of a window -/

theorem imageBits_one_bool {b : Bool} {i lo : Nat} (h : b = true ↔ imageBits ws i lo 1 = 1) :
    imageBits ws i lo 1 = if b then 1 else 0 := by
  have := imageBits_lt ws i lo 1
  split
  next hb => exact h.mp hb
  next hb =>
    have := mt h.mpr hb
    omega

/-- The bytes of the data words, and those of the stamp and check words, are those of the record. -/
theorem dataWords_fits {spec : RecordSpec} {total : Nat} (hlen : 2 ≤ spec.reclen) :
    total = 4 * spec.dataWords
      ↔ total + 4 * ((if spec.stamp then 1 else 0) + if spec.check then 1 else 0)
          = 4 * spec.reclen := by
  unfold RecordSpec.dataWords
  split <;> split <;> omega

/-- The LAYOUT test of a window's LAYOUT field (R24). -/
theorem layoutFits_iff {layouts : List Layout} {w : Window} {k : Nat}
    (hw : WindowFrom ws (13 + 4 * k) w ∧ w.Ranged)
    (hlayouts : layoutsOf ws (13 + 4 * imageWindows ws) (imageLayouts ws) = some layouts) :
    layoutFits layouts w = true ↔
      let f := imageBits ws
      let i := 13 + 4 * k
      f i 20 2 = 1 → f (i + 1) 10 4 < f 2 16 8
        ∧ f (13 + 4 * f 2 8 8 + 5 * f (i + 1) 10 4) 8 8 + 4 * (f (i + 1) 8 1 + f (i + 1) 9 1)
            = 4 * f (i + 2) 0 6 := by
  obtain ⟨⟨-, -, -, hfrom⟩, -, hranged⟩ := hw
  obtain ⟨hlen, hget⟩ := layoutsOf_some hlayouts
  unfold layoutFits
  split
  next span ew hk =>
    rw [hk] at hfrom
    refine iff_of_true rfl fun hkind => ?_
    cases hfrom.1.symm.trans hkind
  next spec hk =>
    rw [hk] at hfrom
    obtain ⟨hkind, hreclen, -, -, -, hstamp, hcheck, hlayout⟩ := hfrom
    obtain ⟨hspec, -⟩ := hranged spec hk
    simp only [Nat.add_zero] at hkind hreclen hstamp hcheck hlayout
    have hs := imageBits_one_bool hstamp
    have hc := imageBits_one_bool hcheck
    dsimp only
    rw [hs, hc, ← hlayout, ← hreclen, ← hlen]
    split
    next hnone =>
      refine iff_of_false nofun fun h => ?_
      exact Nat.not_lt.mpr (List.getElem?_eq_none_iff.mp hnone) (h hkind).1
    next lay hlay =>
      obtain ⟨hlt, -⟩ := List.getElem?_eq_some_iff.mp hlay
      obtain ⟨htotal, -⟩ := hget spec.layout lay hlay
      rw [beq_iff_eq, htotal, dataWords_fits hspec]
      exact ⟨fun h _ => ⟨hlt, h⟩, fun h => (h hkind).2⟩

/-- The POLICY test of a window (R154). -/
theorem policyHolds_iff {w : Window} {k : Nat} (hw : WindowFrom ws (13 + 4 * k) w) :
    policyHolds w = true ↔
      let i := 13 + 4 * k
      imageBits ws i 20 2 = 1 → imageBits ws (i + 1) 6 2 = 1 → imageBits ws (i + 1) 8 1 = 1 := by
  obtain ⟨-, -, -, hfrom⟩ := hw
  unfold policyHolds
  split
  next span ew hk =>
    rw [hk] at hfrom
    refine iff_of_true rfl fun hkind => ?_
    cases hfrom.1.symm.trans hkind
  next spec hk =>
    rw [hk] at hfrom
    obtain ⟨hkind, -, -, -, hpolicy, hstamp, -⟩ := hfrom
    simp only [Nat.add_zero] at hkind hpolicy hstamp
    split
    next hlast =>
      rw [hlast] at hpolicy
      refine iff_of_true rfl fun _ h => ?_
      cases hpolicy.symm.trans h
    next hguarded =>
      rw [hguarded] at hpolicy
      exact ⟨fun h _ _ => hstamp.mp h, fun h => hstamp.mpr (h hkind hpolicy)⟩

/-- A test of every window is a test of every window entry. -/
theorem all_windows_iff {windows : List Window} {test : Window → Bool} {P : Nat → Prop}
    (hlen : windows.length = imageBits ws 2 8 8)
    (h : ∀ k w, windows[k]? = some w → (test w = true ↔ P k)) :
    windows.all test = true ↔ ∀ k < imageBits ws 2 8 8, P k := by
  rw [List.all_eq_true, ← hlen]
  constructor
  · intro hall k hk
    exact (h k _ (List.getElem?_eq_getElem hk)).mp (hall _ (List.getElem_mem hk))
  · intro hall w hw
    obtain ⟨k, hk, hget⟩ := List.getElem_of_mem hw
    exact (h k w (hget ▸ List.getElem?_eq_getElem hk)).mpr (hall k hk)

theorem imageLayout_iff {windows : List Window}
    (hwindows : windowsOf ws 13 (imageWindows ws) = some windows) :
    ImageLayout ws ↔
      ∃ layouts, layoutsOf ws (13 + 4 * imageWindows ws) (imageLayouts ws) = some layouts
        ∧ windows.all (layoutFits layouts) = true := by
  obtain ⟨hlen, hget⟩ := windowsOf_some hwindows
  have hall := fun layouts (hl : layoutsOf ws (13 + 4 * imageWindows ws) (imageLayouts ws)
      = some layouts) =>
    all_windows_iff hlen (test := layoutFits layouts) fun k w hw => layoutFits_iff (hget k w hw) hl
  unfold ImageLayout
  constructor
  · rintro ⟨hentries, hfits⟩
    obtain ⟨layouts, hl⟩ := layoutsOf_isSome.mpr hentries
    exact ⟨layouts, hl, (hall layouts hl).mpr hfits⟩
  · rintro ⟨layouts, hl, hfits⟩
    exact ⟨layoutsOf_isSome.mp ⟨layouts, hl⟩, (hall layouts hl).mp hfits⟩

theorem imagePolicy_iff {windows : List Window}
    (hwindows : windowsOf ws 13 (imageWindows ws) = some windows) :
    ImagePolicy ws ↔ windows.all policyHolds = true := by
  obtain ⟨hlen, hget⟩ := windowsOf_some hwindows
  exact (all_windows_iff hlen fun k w hw => policyHolds_iff (hget k w hw).1).symm

theorem imageRing_iff :
    ImageRing ws ↔ (∃ x, ringOf ws 9 = some x) ∧ ∃ x, ringOf ws 11 = some x := by
  rw [ringOf_isSome, ringOf_isSome, ImageRing]
  simp only [List.mem_cons, List.not_mem_nil, or_false, forall_eq_or_imp, forall_eq]

/-! ## The tests in their order -/

section
variable {ib : WAddr} {settings : Both PortSettings}

theorem validateEntries_of_not_range (h : ¬ ImageRange ws) :
    validateEntries ib ws settings = .fails .range := by
  unfold validateEntries
  split
  · rfl
  next windows hw => exact absurd (windowsOf_isSome.mp ⟨windows, hw⟩) h

theorem validateEntries_of_not_layout (hr : ImageRange ws) (h : ¬ ImageLayout ws) :
    validateEntries ib ws settings = .fails .layout := by
  obtain ⟨windows, hw⟩ := windowsOf_isSome.mpr hr
  unfold validateEntries
  rw [hw]
  dsimp only
  split
  · rfl
  next layouts hl => rw [if_neg fun hfits => h ((imageLayout_iff hw).mpr ⟨layouts, hl, hfits⟩)]

/-- Once RANGE and LAYOUT are passed, POLICY, RING and OVERLAP are left. -/
theorem validateEntries_of_layout (hr : ImageRange ws) (h : ImageLayout ws) :
    ∃ windows layouts, windowsOf ws 13 (imageWindows ws) = some windows
      ∧ validateEntries ib ws settings
        = if windows.all policyHolds then
            match ringOf ws 9, ringOf ws 11 with
            | some ra, some rb =>
              validateOverlap ib ws settings windows layouts { a := ra, b := rb }
            | _, _ => .fails .ring
          else .fails .policy := by
  obtain ⟨windows, hw⟩ := windowsOf_isSome.mpr hr
  obtain ⟨layouts, hl, hfits⟩ := (imageLayout_iff hw).mp h
  refine ⟨windows, layouts, hw, ?_⟩
  unfold validateEntries
  rw [hw, hl]
  dsimp only
  refine (if_pos hfits).trans ?_
  cases ringOf ws 9 <;> cases ringOf ws 11 <;> rfl

theorem validateEntries_of_not_policy (hr : ImageRange ws) (hl : ImageLayout ws)
    (h : ¬ ImagePolicy ws) : validateEntries ib ws settings = .fails .policy := by
  obtain ⟨windows, layouts, hw, heq⟩ := validateEntries_of_layout (ib := ib) (settings := settings) hr hl
  rw [heq, if_neg fun hall => h ((imagePolicy_iff hw).mpr hall)]

theorem validateEntries_of_not_ring (hr : ImageRange ws) (hl : ImageLayout ws) (hp : ImagePolicy ws)
    (h : ¬ ImageRing ws) : validateEntries ib ws settings = .fails .ring := by
  obtain ⟨windows, layouts, hw, heq⟩ := validateEntries_of_layout (ib := ib) (settings := settings) hr hl
  rw [heq, if_pos ((imagePolicy_iff hw).mp hp)]
  split
  next ra rb ha hb => exact absurd (imageRing_iff.mpr ⟨⟨ra, ha⟩, ⟨rb, hb⟩⟩) h
  · rfl

theorem validateEntries_of_ring (hr : ImageRange ws) (hl : ImageLayout ws) (hp : ImagePolicy ws)
    (h : ImageRing ws) :
    validateEntries ib ws settings = .fails .overlap
      ∨ ∃ m, validateEntries ib ws settings = .passes m := by
  obtain ⟨windows, layouts, hw, heq⟩ := validateEntries_of_layout (ib := ib) (settings := settings) hr hl
  obtain ⟨⟨ra, ha⟩, ⟨rb, hb⟩⟩ := imageRing_iff.mp h
  rw [heq, if_pos ((imagePolicy_iff hw).mp hp), ha, hb]
  dsimp only
  unfold validateOverlap
  split
  · exact .inr ⟨_, rfl⟩
  · exact .inl rfl

end

/-- Once FORMAT is passed, LENGTH, CHECK and the entries are left. -/
theorem validateWords_of_format {ib : WAddr} {n : Nat} {raw : List Word} (h : ImageFormat ws) :
    ∃ settings, validateWords ib n raw ws
      = if n = 13 + 4 * imageBits ws 2 8 8 + 5 * imageBits ws 2 16 8 then
          if crc32 (raw.drop 4) = ws.getD 3 0 then validateEntries ib ws settings
          else .fails .check
        else .fails .length := by
  obtain ⟨hf, ⟨sa, ha⟩, ⟨sb, hb⟩⟩ := imageFormat_iff.mp h
  refine ⟨{ a := sa, b := sb }, ?_⟩
  rw [validateWords, hf, ha, hb, imageLength, imageWindows, imageLayouts, imageField_eq,
    imageField_eq]

/-! ## The map that passes -/

theorem share_false_iff {x y : Nat × Nat} :
    share x y = false ↔ x.1 + x.2 ≤ y.1 ∨ y.1 + y.2 ≤ x.1 := by
  rw [share, Bool.and_eq_false_iff, decide_eq_false_iff_not, decide_eq_false_iff_not]
  omega

theorem severitiesOf_getElem? {k : Nat} {sev : BitVec 2} (h : (severitiesOf ws)[k]? = some sev) :
    sev.toNat = imageBits ws 8 (2 * k) 2 := by
  obtain ⟨j, hj, rfl⟩ := Option.map_eq_some_iff.mp (List.getElem?_map .. ▸ h)
  obtain ⟨hlt, rfl⟩ := List.getElem?_eq_some_iff.mp hj
  rw [List.getElem_range, extractLsb'_toNat_eq]

/-- What has been read of an image that passes every test (R150). -/
theorem validateWords_passes {ib : WAddr} {n : Nat} {raw : List Word} {m : RecordMap}
    (h : validateWords ib n raw ws = .passes m) :
    ∃ sa sb ra rb windows layouts, formatHolds ws = true ∧ settingsOf ws 4 = some sa
      ∧ settingsOf ws 5 = some sb ∧ windowsOf ws 13 (imageWindows ws) = some windows
      ∧ layoutsOf ws (13 + 4 * imageWindows ws) (imageLayouts ws) = some layouts
      ∧ windows.all (layoutFits layouts) = true ∧ windows.all policyHolds = true
      ∧ ringOf ws 9 = some ra ∧ ringOf ws 11 = some rb
      ∧ disjoint (extents ib windows { a := ra, b := rb }) = true
      ∧ m = { windows := windows, layouts := layouts, settings := { a := sa, b := sb },
              sessionLimit := (ws.getD 6 0).extractLsb' 0 16,
              captureLimit := (ws.getD 6 0).extractLsb' 16 16,
              holdLimit := (ws.getD 7 0).extractLsb' 0 16,
              memoryLimit := (ws.getD 7 0).extractLsb' 16 8,
              severities := severitiesOf ws, rings := { a := ra, b := rb } } := by
  unfold validateWords at h
  split at h
  next sa sb hf ha hb =>
    split at h
    · split at h
      · unfold validateEntries at h
        split at h
        · cases h
        next windows hw =>
          split at h
          · cases h
          next layouts hl =>
            split at h
            next hfits =>
              split at h
              next hpol =>
                split at h
                next ra rb hra hrb =>
                  unfold validateOverlap at h
                  split at h
                  next hdis =>
                    cases h
                    exact ⟨sa, sb, ra, rb, windows, layouts, hf, ha, hb, hw, hl, hfits, hpol, hra,
                      hrb, hdis, rfl⟩
                  · cases h
                · cases h
              · cases h
            · cases h
      · cases h
    · cases h
  · cases h

/-- The memory limit is the low byte of a field that the FORMAT test keeps within a byte (R151). -/
theorem imageBits_low_byte {i lo : Nat} (h : imageBits ws i lo 16 ≤ 255) :
    imageBits ws i lo 8 = imageBits ws i lo 16 := by
  unfold imageBits at h ⊢
  omega

/-- A map that passes is the image's, field by field. -/
theorem validateWords_from {ib : WAddr} {n : Nat} {raw : List Word} {m : RecordMap}
    (h : validateWords ib n raw ws = .passes m) : m.From ws := by
  obtain ⟨sa, sb, ra, rb, windows, layouts, hf, ha, hb, hw, hl, -, -, hra, hrb, -, rfl⟩ :=
    validateWords_passes h
  obtain ⟨-, -, -, -, -, -, hmem⟩ := imageFormat_iff.mpr ⟨hf, ⟨sa, ha⟩, ⟨sb, hb⟩⟩
  obtain ⟨hwlen, hwindows⟩ := windowsOf_some hw
  obtain ⟨hllen, hlayouts⟩ := layoutsOf_some hl
  exact ⟨hwlen, hllen, (settingsOf_some ha).1, (settingsOf_some hb).1,
    extractLsb'_toNat_eq .., extractLsb'_toNat_eq .., extractLsb'_toNat_eq ..,
    (extractLsb'_toNat_eq ..).trans (imageBits_low_byte hmem), by simp [severitiesOf],
    fun _ _ => severitiesOf_getElem?, (ringOf_some hra).1, (ringOf_some hrb).1,
    fun k x hx => (hwindows k x hx).1, hlayouts⟩

/-- A map that passes keeps every promise of an installed map (R2 to R9, R24). -/
theorem validateWords_holds {ib : WAddr} {n : Nat} {raw : List Word} {m : RecordMap}
    (h : validateWords ib n raw ws = .passes m) : m.Holds ib := by
  obtain ⟨sa, sb, ra, rb, windows, layouts, hf, ha, hb, hw, hl, hfits, hpol, hra, hrb, hdis, rfl⟩ :=
    validateWords_passes h
  obtain ⟨-, hw24, hl8, -, hhold, hmem, hmem'⟩ := imageFormat_iff.mpr ⟨hf, ⟨sa, ha⟩, ⟨sb, hb⟩⟩
  obtain ⟨hwlen, hwindows⟩ := windowsOf_some hw
  obtain ⟨hllen, hlayouts⟩ := layoutsOf_some hl
  have hranged : ∀ w ∈ windows, w.Ranged := fun w hmem => by
    obtain ⟨k, hk, hget⟩ := List.getElem_of_mem hmem
    exact (hwindows k w (hget ▸ List.getElem?_eq_getElem hk)).2
  refine ⟨hwlen ▸ hw24, hllen ▸ hl8, ?_, ?_, ?_, fun w hmem => (hranged w hmem).1, ?_, ?_, ?_⟩
  · exact Nat.pos_of_ne_zero (by rwa [extractLsb'_toNat_eq])
  · exact Nat.pos_of_ne_zero (by rwa [extractLsb'_toNat_eq, imageBits_low_byte hmem'])
  · intro p
    cases p
    · exact (settingsOf_some ha).2
    · exact (settingsOf_some hb).2
  · intro w hmem spec hk
    obtain ⟨hlen, hlen', hcnt, hcnt'⟩ := (hranged w hmem).2 spec hk
    have hfit := List.all_eq_true.mp hfits w hmem
    have hpolicy := List.all_eq_true.mp hpol w hmem
    rw [layoutFits, hk] at hfit
    rw [policyHolds, hk] at hpolicy
    dsimp only at hfit hpolicy
    refine ⟨hlen, hlen', hcnt, hcnt', fun hg => by rwa [hg] at hpolicy, ?_⟩
    split at hfit
    · cases hfit
    next lay hlay =>
      rw [beq_iff_eq] at hfit
      obtain ⟨-, -, -, -, hpats⟩ := hlayouts _ lay hlay
      exact ⟨lay, hlay, hfit, by omega⟩
  · intro p pl hpl
    cases p
    · exact (ringOf_some hra).2 pl hpl
    · exact (ringOf_some hrb).2 pl hpl
  · simpa only [disjoint_iff_pairwise, share_false_iff] using hdis

end

/-- Settles O42: each test of the model is the corresponding test of the image's words, and what the
passed tests have read is what the map promises. -/
theorem validatedMapHolds : Obligations.ValidatedMapHolds := by
  unfold Obligations.ValidatedMapHolds
  refine ⟨fun st n raw m h => ⟨validateWords_holds h, validateWords_from h⟩, fun st n raw => ?_⟩
  refine ⟨validateWords_of_not_format, fun hf hn => ?_, fun hf hn hc => ?_, fun hf hn hc => ?_⟩
  all_goals
    obtain ⟨settings, heq⟩ := validateWords_of_format (ib := st.imageBase) (n := n) (raw := raw) hf
  · rw [validate, heq, if_neg hn]
  · rw [validate, heq, if_pos hn, if_neg hc]
  · rw [validate, heq, if_pos hn, if_pos hc]
    exact ⟨validateEntries_of_not_range, validateEntries_of_not_layout, fun hr hl =>
      ⟨validateEntries_of_not_policy hr hl, validateEntries_of_not_ring hr hl,
        validateEntries_of_ring hr hl⟩⟩

end Sys2Proof.Machine
end

section
/-! PROOFS. Settles O60: every map in force, and every candidate, is one that validation has passed
(R2 to R9, R24). -/

namespace Sys2Proof.Machine

theorem State.map_of_part {s t : State} (h : t.part = s.part) : t.map = s.map := by
  simp only [State.map, h]

theorem State.MapsHold.same {s t : State} (h : s.MapsHold) (hp : t.part = s.part)
    (hs : t.straps = s.straps) : t.MapsHold := by
  obtain ⟨hmap, hcand⟩ := h
  refine ⟨fun m hm => ?_, fun ld m hl hph => ?_⟩
  · rw [hs]
    exact hmap m (State.map_of_part hp ▸ hm)
  · rw [hs]
    exact hcand ld m (hp ▸ hl) hph

theorem State.MapsHold.inside {s t : State} (h : s.MapsHold) (hi : s.Inside t)
    (hp : t.part = s.part) : t.MapsHold := h.same hp hi.straps

/-- The part moves on without a candidate, or with a valid one. -/
theorem State.MapsHold.toPhase {s : State} {ld : Load} (h : s.MapsHold) (hl : s.part = .loading ld)
    {ph : Phase} (hph : ∀ m, ph = .installing m → m.Holds s.straps.imageBase) :
    (s.toPhase ld ph).MapsHold := by
  refine ⟨fun m hm => h.1 m ?_, fun ld' m hl' hph' => ?_⟩
  · rwa [← (State.toPhase_lines ph hl).map]
  · cases hl'
    exact hph m hph'

/-- The shared operations leave the part and the straps alone. -/
theorem kept_maps : Kept State.MapsHold :=
  Kept.of_frames (fun hw h => h.inside hw.inside (by rw [hw]))
    (fun hw h => h.inside hw.inside (by rw [hw])) fun _ h => h.same rfl rfl

theorem State.MapsHold.failLoad {s : State} {ld : Load} (h : s.MapsHold) (r : LoadResult)
    (hl : s.part = .loading ld) : (s.failLoad ld r).MapsHold :=
  (h.toPhase hl (ph := .reporting) fun _ hph => nomatch hph).same rfl rfl

theorem State.MapsHold.startDraining {s : State} {ld : Load} (h : s.MapsHold)
    (hl : s.part = .loading ld) : (s.toPhase ld .draining).MapsHold :=
  h.toPhase hl fun _ hph => nomatch hph

theorem State.MapsHold.startReading {s : State} {ld : Load} (h : s.MapsHold)
    (hl : s.part = .loading ld) :
    { s.toPhase ld .reading with loaderClaim := some .imageRead }.MapsHold :=
  (h.toPhase hl (ph := .reading) fun _ hph => nomatch hph).same rfl rfl

theorem State.claimInstall_part (s : State) (cand : RecordMap) :
    (s.claimInstall cand).part = s.part := by
  unfold State.claimInstall
  repeat' split
  all_goals rfl

theorem State.claimAfterHeader_part (s : State) (cand : RecordMap) (q : Port) :
    (s.claimAfterHeader cand q).part = s.part := by
  unfold State.claimAfterHeader
  repeat' split
  all_goals rfl

/-- A candidate is a map that validation has passed (R150). -/
theorem State.MapsHold.applyVerdict {s : State} {ld : Load} (h : s.MapsHold)
    (hl : s.part = .loading ld) {n : Nat} {raw : List Word} {v : Verdict}
    (hv : validate s.straps n raw = v) : (s.applyVerdict ld v).MapsHold := by
  cases v with
  | fails r => exact h.failLoad r hl
  | passes cand =>
    refine (h.toPhase hl (ph := .installing cand) ?_).inside
      (State.claimInstall_inside _ cand) (State.claimInstall_part _ cand)
    rintro _ ⟨⟩
    exact validateWords_holds hv

theorem State.MapsHold.install {s : State} {ld : Load} {cand : RecordMap} (h : s.MapsHold)
    (hl : s.part = .loading ld) (hph : ld.phase = .installing cand) : (s.install cand).MapsHold := by
  have hpart : (s.install cand).part = .active cand := rfl
  refine ⟨fun m hm => ?_, fun ld' m hl' => absurd (hpart.symm.trans hl') PartState.noConfusion⟩
  simp only [State.map, hpart, Option.some.injEq] at hm
  subst hm
  exact h.2 ld cand hl hph

theorem State.MapsHold.endLoad {s : State} (h : s.MapsHold) (ld : Load) (order : EndOrder) :
    (s.endLoad ld order).MapsHold :=
  Kept.endLoad kept_maps ld order
    (h.inside s.releaseDeferred_work.inside (by rw [s.releaseDeferred_work]))

theorem Load.fromState_not_loading (ld ld' : Load) : ld.fromState ≠ .loading ld' := by
  unfold Load.fromState
  split <;> nofun

theorem State.MapsHold.endFailed {s : State} {ld : Load} (h : s.MapsHold) (order : EndOrder)
    (hl : s.part = .loading ld) : (s.endFailed ld order).MapsHold := by
  refine State.MapsHold.endLoad (s := { s with part := ld.fromState }) ⟨fun m hm => ?_, ?_⟩ ld order
  · exact h.1 m ((Load.fromState_map hl).symm.trans hm)
  · exact fun ld' _ hl' => absurd hl' (ld.fromState_not_loading ld')

theorem State.MapsHold.enterLoading {s : State} (h : s.MapsHold) (p : Port) (n : Nat) :
    (s.enterLoading p n).MapsHold := by
  refine ⟨fun m hm => h.1 m ((State.enterLoading_lines s p n).map.symm.trans hm), ?_⟩
  rintro ld m ⟨⟩ hph
  cases hph

theorem State.MapsHold.port {s t : State} (h : s.MapsHold) (hw : s.PortWork t) : t.MapsHold :=
  h.inside hw.inside (by rw [hw])

theorem State.MapsHold.beginLoad {s : State} (h : s.MapsHold) (p : Port) (n : Nat) (gf : Bool)
    (entry : EntryOrder) : (s.beginLoad p n gf entry).MapsHold := by
  have hevents := Kept.grantIf kept_maps gf (Kept.takeEvents kept_maps entry.events h)
  exact (((hevents.enterLoading p n).port (State.emptyForLoad_work _ .a)).port
    (State.emptyForLoad_work _ .b)).port (State.raiseAll_work _ _)

/-! ## The ends of operations -/

theorem State.MapsHold.expireStampRead {s : State} (h : s.MapsHold) (p : Port) :
    (s.expireStampRead p).MapsHold := by
  unfold State.expireStampRead
  split
  · exact Kept.free kept_maps _ (Kept.raise kept_maps _ (h.same rfl rfl))
  · exact h

theorem State.MapsHold.expireWriting {s : State} (h : s.MapsHold) (p : Port) (g : Granted) :
    (s.expireWriting p g).MapsHold := by
  unfold State.expireWriting
  split
  · exact Kept.raise kept_maps _
      (h.same (State.enterTorn_part _ _ _).1 (State.enterTorn_inside _ _ _).straps)
  · exact h

theorem State.MapsHold.expireLoader {s : State} (h : s.MapsHold) (order : EndOrder) :
    (s.expireLoader order).MapsHold := by
  have hgrant := Kept.grantIf kept_maps order.grantAtEnd h
  have hpart : (s.grantIf order.grantAtEnd).part = s.part := by rw [s.grantIf_work]
  unfold State.expireLoader
  dsimp only
  split
  next hl =>
    rw [← hpart] at hl
    split
    · split
      · exact hgrant.endFailed order hl
      · exact hgrant.failLoad _ hl
    · exact hgrant.failLoad _ hl
  · exact h

theorem State.MapsHold.expire {s : State} (h : s.MapsHold) (g : Granted) (w : WordAccess)
    (order : EndOrder) : (s.expire g w order).MapsHold := by
  have hnotice := fun p entry handles => h.port (s.expireNotice_work p entry handles)
  unfold State.expire
  split
  · exact Kept.chooseAfter kept_maps _ (h.port (s.expireSingle_work _))
  · exact Kept.chooseAfter kept_maps _ (h.expireStampRead _)
  · exact Kept.chooseAfter kept_maps _ (h.port (s.expireCapture_work _ _))
  · exact Kept.chooseAfter kept_maps _ (h.port (s.expireReading_work _ _))
  · exact Kept.chooseAfter kept_maps _ (h.expireWriting _ _)
  · exact Kept.chooseAfter kept_maps _ (hnotice _ _ _)
  · exact Kept.chooseAfter kept_maps _ (hnotice _ _ _)
  · exact Kept.chooseAfter kept_maps _ (hnotice _ _ _)
  · exact Kept.choose kept_maps (h.expireLoader _)
  · exact Kept.choose kept_maps (h.expireLoader _)
  · exact Kept.choose kept_maps (h.expireLoader _)

theorem State.MapsHold.clearIfLoading {s : State} (h : s.MapsHold) (p : Port) :
    (s.clearIfLoading p).MapsHold := by
  unfold State.clearIfLoading
  split
  · exact (h.port (State.emptyForLoad_work _ p)).port (State.raiseAll_work _ _)
  · exact h

theorem State.MapsHold.endReady {s : State} (h : s.MapsHold) (p : Port) (acc : Access) (w : Word) :
    (s.endReady p acc w).MapsHold := h.same rfl rfl

theorem State.MapsHold.healTorn {s : State} (h : s.MapsHold) (base : WAddr) (window : Nat) :
    (s.healTorn base window).MapsHold := h.same rfl rfl

theorem State.MapsHold.freeSession {s : State} (h : s.MapsHold) (p : Port) (w r : Nat) :
    (s.freeSession p w r).MapsHold := h.same rfl rfl

theorem State.MapsHold.endOp {s : State} (h : s.MapsHold) : s.endOp.MapsHold := h.same rfl rfl

theorem State.MapsHold.endFault {s : State} (h : s.MapsHold) (p : Port) (acc : Access) :
    (s.endFault p acc).MapsHold := h.same rfl rfl

theorem State.MapsHold.setRing {s : State} (h : s.MapsHold) (q : Port) (r : Ring) :
    (s.setRing q r).MapsHold := h.same rfl rfl

theorem State.MapsHold.handled {s : State} (h : s.MapsHold) (q : Port) :
    (s.handled q).MapsHold := h.same rfl rfl

theorem State.MapsHold.evaluateAttention {s : State} (h : s.MapsHold) (q : Port) :
    (s.evaluateAttention q).MapsHold := h.same rfl rfl

theorem State.MapsHold.answer {s : State} (h : s.MapsHold) (w : WordAccess) (ans : Answer) :
    (s.answer w ans).MapsHold := by
  rw [State.answer_frame]
  exact h.same rfl rfl

theorem State.MapsHold.answered {s : State} (h : s.MapsHold) (w : WordAccess) (ans : Answer) :
    (s.answered w ans).MapsHold := (h.answer w ans).same rfl rfl

theorem State.MapsHold.expired {s : State} (h : s.MapsHold) (w : WordAccess) :
    (s.expired w).MapsHold := by
  rw [State.expired, State.landExpired_frame]
  exact h.same rfl rfl

theorem State.MapsHold.issue {s : State} (h : s.MapsHold) (op : Op) (todo : List WordAccess)
    (done : Nat) (got : List Word) : (s.issue op todo done got).MapsHold := h.same rfl rfl

theorem State.MapsHold.endStale {s : State} (h : s.MapsHold) (p : Port) (acc : Access)
    (ses : Session) (found : Count) (gf : Bool) : (s.endStale p acc ses found gf).MapsHold :=
  Kept.chooseAfter kept_maps gf
    (Kept.raise kept_maps _ ((h.endOp.freeSession p _ _).endFault p acc))

/-- A part without a map and without a load holds none. -/
theorem State.MapsHold.of_bare {s : State} (h : s.part = .bare) : s.MapsHold := by
  refine ⟨fun m hm => ?_, fun ld m hl => ?_⟩
  · simp only [State.map, h, reduceCtorEq] at hm
  · rw [h] at hl
    cases hl

/-- R9: every command keeps every map in force, and every candidate, valid. -/
theorem Effect.mapsHold {s t : State} {c : Instr} (heff : Effect s c t) (hh : s.HeldInReset)
    (h : s.MapsHold) : t.MapsHold := by
  have hans := fun w ans => h.answered w ans
  cases heff with
  | stays => exact h
  | reset => exact .of_bare rfl
  | @release _ _ _ hr =>
    have he := hh.emptied hr
    refine Kept.arriveBoth kept_maps (fun p => ?_) (.of_bare ?_)
    · exact congrArg Engine.estate (he.engine p)
    · exact he.part
  | strobe | tick | stray | ackReleased => exact h.same rfl rfl
  | access => exact Kept.present kept_maps _ _ h
  | grant => exact Kept.choose kept_maps (Kept.arbitrate kept_maps h)
  | @word ans g w w' ws => exact (h.answer w ans).issue _ _ _ _
  | @commitWord _ ans g w rest => cases rest <;> exact (h.answer w ans).issue _ _ _ _
  | @single ans g w => exact (hans w ans).endReady _ _ _
  | @count ans g w p q acc t n =>
    exact ((hans w ans).inside (State.takeCount_inside _ q n) (by rfl)).endReady p acc 0
  | @request ans _ _ g w p acc =>
    have hend := (hans w ans).endReady p acc 0
    split
    · exact hend
    · exact Kept.choose kept_maps (State.MapsHold.beginLoad (Kept.grantIf kept_maps _ hend) _ _ _ _)
  | @stampRead ans g w =>
    exact Kept.choose kept_maps
      (((hans w ans).port (State.stageWrite_work _ _ _ _ _ _)).clearIfLoading _)
  | @stale ans g w => exact (h.answer w ans).endStale _ _ _ _ _
  | @committed ans g w => exact (((hans w ans).healTorn _ _).freeSession _ _ _).endReady _ _ _
  | @captured ans g w =>
    exact Kept.chooseAfter kept_maps _
      (((hans w ans).port (State.fillCapture_work _ _ _ _ _ _)).clearIfLoading _)
  | @entryBurst ans g w =>
    exact Kept.choose kept_maps ((((hans w ans).setRing _ _).handled _).evaluateAttention _)
  | @fullRingBurst ans g w => exact Kept.choose kept_maps (((hans w ans).setRing _ _).handled _)
  | @lossReport ans g w => exact Kept.choose kept_maps ((hans w ans).setRing _ _)
  | @inProgress ans g w ld _ _ hl =>
    exact (hans w ans).startDraining (by rwa [State.answered_part])
  | drained hl => exact h.startReading hl
  | @imageRead ans g w ld _ _ hl raw =>
    refine (hans w ans).applyVerdict (n := ld.reqN) (raw := raw) (by rwa [State.answered_part]) ?_
    rw [(s.answered_inside w ans).straps, State.answer_frame]
  | @header ans g w q ld cand =>
    exact (hans w ans).inside (State.claimAfterHeader_inside _ _ _) (State.claimAfterHeader_part _ _ _)
  | @done ans order g w ld cand _ _ hl hph =>
    exact State.MapsHold.endLoad ((hans w ans).install (by rwa [State.answered_part]) hph) ld order
  | @failed ans order g w ld _ _ hl =>
    refine (Kept.grantIf kept_maps _ (hans w ans)).endFailed order ?_
    rw [State.grantIf_work]
    rwa [State.answered_part]
  | @failedLate order g w rest ld _ _ hl =>
    refine (Kept.grantIf kept_maps _ (h.expired w)).endFailed order ?_
    rw [State.grantIf_work]
    exact (s.expired_part w).trans hl
  | expires => exact (h.expired _).expire _ _ _
  | hold hx => exact Kept.choose kept_maps (Kept.raise kept_maps _ (Kept.hold kept_maps hx h))
  | session hx => exact Kept.choose kept_maps (Kept.raise kept_maps _ (Kept.session kept_maps hx h))
  | captureLimit => exact h.same rfl rfl

/-- Settles O60: each command's effect keeps the maps valid, RESET leaving none. -/
theorem stepKeepsMapsValid : Obligations.StepKeepsMapsValid := by
  intro s t hmaps hh hstep
  exact step_keeps (P := fun v => v.MapsHold ∧ v.HeldInReset) (Q := State.MapsHold) hstep
    (fun rest h => ⟨h.1.same rfl rfl, h.2.pending rest⟩) (fun h => h.1)
    (fun e h => e.mapsHold h.2 h.1) ⟨hmaps, hh⟩

end Sys2Proof.Machine
end

section
/-! PROOFS. Settles O1 to O4, O6 and O7: the queue, RESET, the lines and the Timebase, and accesses in
BARE and LOADING. -/

namespace Sys2Proof.Machine

/-! ## Commands out of place -/

section
variable {s : State}

theorem State.presented_of_none (h : s.granted = none) : s.presented = none := by
  simp only [State.presented, h]

theorem State.lastAccess_of_none (h : s.granted = none) : s.lastAccess = none := by
  simp only [State.lastAccess, State.presented_of_none h]

theorem State.memoryDue_of_none (h : s.granted = none) : s.memoryDue = none := by
  simp only [State.memoryDue, h]

theorem State.reportingEnd_of_none (h : s.granted = none) (how : WriteEnd) :
    s.reportingEnd how = none := by
  cases how with
  | completes ans => simp only [State.reportingEnd, State.lastAccess_of_none h]
  | expires => simp only [State.reportingEnd, State.memoryDue_of_none h]

/-- No status word write ends while no operation is carried. -/
theorem exec_failureStatusWriteEnds_of_none (h : s.granted = none) (how : WriteEnd)
    (order : EndOrder) : exec (.failureStatusWriteEnds how order) s = .next s := by
  change execFailureStatusWriteEnds how order s = _
  unfold execFailureStatusWriteEnds
  split
  · split
    next hend =>
      rw [State.reportingEnd_of_none h] at hend
      cases hend
    · rfl
  · rfl

end

/-- Settles O1: a step is defined by the front of the queue. -/
theorem stepRunsTheFrontCommand : Obligations.StepRunsTheFrontCommand := fun _ _ _ => rfl

/-- Settles O2: every completion asks for the word access in progress, and an expiry for its age. -/
theorem commandsOutOfPlaceChangeNothing : Obligations.CommandsOutOfPlaceChangeNothing := by
  unfold Obligations.CommandsOutOfPlaceChangeNothing
  constructor
  · intro s hp
    simp only [step, hp]
  · intro ans order gf entry s hg
    have hlast := State.lastAccess_of_none hg
    have hpres := State.presented_of_none hg
    have hdue := State.memoryDue_of_none hg
    simp only [List.forall_mem_cons, List.not_mem_nil, false_imp_iff, implies_true, and_true]
    refine ⟨?_, ?_, ?_, ?_, ?_, ?_, ?_, ?_, ?_, ?_, ?_, ?_, ?_, ?_, ?_,
      exec_failureStatusWriteEnds_of_none hg _ _, exec_failureStatusWriteEnds_of_none hg _ _, ?_⟩
    · simp only [exec, execWordAccessCompletes, hpres]
    · simp only [exec, execSingleOperationCompletes, hlast]
    · simp only [exec, execConsumerCountTaken, hlast]
    · simp only [exec, execRequestWriteCompletes, hlast]
    · simp only [exec, execStampReadCompletes, hlast]
    · simp only [exec, execCommitStampReadCompletes, hpres]
    · simp only [exec, execCommitBurstCompletes, hlast]
    · simp only [exec, execCaptureBurstCompletes, hlast]
    · simp only [exec, execEntryBurstCompletes, hlast]
    · simp only [exec, execFullRingBurstCompletes, hlast]
    · simp only [exec, execLossReportCompletes, hlast]
    · simp only [exec, execInProgressWriteCompletes, hlast]
    · simp only [exec, execImageReadCompletes, hlast]
    · simp only [exec, execRingHeaderWriteCompletes, hlast]
    · simp only [exec, execDoneWriteCompletes, hlast]
    · simp only [exec, execMemoryLimitExpires, hdue]

/-! ## RESET -/

theorem State.reset_attentionRight : State.reset.AttentionRight := by
  intro p
  have hattn : State.reset.attn.get p = false := Both.get_same false p
  rw [hattn]
  exact iff_of_false nofun fun ⟨m, _, _, hm, _⟩ => nomatch hm

/-- Settles O3: each item by its reset value, and the invariants as RESET itself leaves them. -/
theorem resetStateHoldsTheResetValues : Obligations.ResetStateHoldsTheResetValues := by
  unfold Obligations.ResetStateHoldsTheResetValues
  have hstores : State.reset.StoresHold := State.reset.afterReset_storesHold
  have htidy := State.reset.afterReset_tidy
  have horder := State.reset.afterReset_inOrder
  have hrings : State.reset.RingsGood :=
    State.reset.afterReset_ringsGood.same (t := State.reset) rfl rfl rfl rfl
  obtain ⟨hwithin, hcounts, hnamed⟩ := (State.ringsGood_iff _).mp hrings
  constructor
  · refine ⟨rfl, rfl, rfl, rfl, rfl, rfl, fun p => ?_, rfl, rfl, fun r => ?_, rfl, rfl, rfl, rfl,
      fun _ => rfl, fun p => Both.get_same false p, rfl, rfl, rfl⟩
    · cases p <;> exact ⟨rfl, rfl, rfl⟩
    · cases r <;> rfl
  · exact ⟨rfl, hstores, htidy.settled, htidy.bare, nofun,
      horder.agree, horder.quiet, .inr (.inr rfl), State.reset_attentionRight, hwithin, hcounts,
      hnamed, .of_bare rfl⟩

/-- A write that RESET cuts off lands as a write on the bus does (R73, R108). -/
theorem State.cutOff_landed {s : State} :
    s.cutOff.mem = s.mem ∨ ∃ g w rest, s.granted = some g ∧ g.todo = w :: rest
      ∧ s.mem.Landed w s.cutOff.mem := by
  unfold State.cutOff
  split
  · exact .inl rfl
  next g hg =>
    split
    · exact .inl rfl
    next w rest ht => exact .inr ⟨g, w, rest, hg, ht, s.landOn_landed w _⟩

/-- A word access of a commit burst that RESET cuts off is whole (R73). -/
theorem State.cutOff_commit {s : State} {g : Granted} {w : WordAccess} {rest : List WordAccess}
    {p : Port} {wr : Bool} (hg : s.granted = some g) (ht : g.todo = w :: rest)
    (ho : g.op = .commit p wr) :
    s.cutOff.mem = s.mem ∨ s.cutOff.mem = s.mem.writeWord w.addr w.be w.data := by
  have hcut : s.cutOff = s.landCut w := by simp only [State.cutOff, hg, ht]
  rw [hcut]
  exact State.landCut_commit w hg ho

/-- A word written whole holds the data on each enabled lane. -/
theorem Memory.readByte_writeWord_enabled {m : Memory} (hwf : m.wf = true) {a : WAddr} {be : Lanes}
    {data : Word} {k : Nat} (hk : k < 4) (he : enabled be k = true) :
    (m.writeWord a be data).readByte (4 * a.toNat + k) = lane data k := by
  have hdiv : (4 * a.toNat + k) / 4 = a.toNat := by omega
  have hmod : (4 * a.toNat + k) % 4 = k := by omega
  rw [Memory.readByte_writeWord hwf, hdiv, hmod, if_pos ⟨rfl, he⟩]

/-- Settles O4: RESET leaves `afterReset`, and the write it cuts off lands as the bus allows. -/
theorem resetEmptiesThePart : Obligations.ResetEmptiesThePart := by
  intro s hwf
  refine ⟨s.afterReset, exec_reset s, rfl, fun x => ?_, fun g w rest p wr hg ht ho => ?_⟩
  · obtain heq | ⟨g, w, rest, hg, ht, hland⟩ := s.cutOff_landed
    · exact .inl (congrArg (fun m : Memory => m.readByte x) heq)
    · obtain hsame | ⟨hd, hword, hlane, hbyte⟩ := hland.readByte hwf x
      · exact .inl hsame
      · exact .inr ⟨g, w, rest, hg, ht, hd, hword, hlane, hbyte⟩
  · obtain heq | heq := State.cutOff_commit hg ht ho
    · exact .inl fun x => congrArg (fun m : Memory => m.readByte x) heq
    · refine .inr fun k hk he => ?_
      change s.cutOff.mem.readByte _ = _
      rw [heq]
      exact Memory.readByte_writeWord_enabled hwf hk he

/-! ## The lines and the Timebase -/

theorem Straps.periods_eq (st : Straps) :
    st.periods = (match st.ckSel.toNat with | 0 => 8 | 1 => 16 | _ => 32) := by
  have h : ∀ n : BitVec 2, (if n = 0 then 8 else if n = 1 then 16 else 32)
      = (match n.toNat with | 0 => 8 | 1 => 16 | _ => 32) := by decide
  exact h st.ckSel

theorem State.presented_of_not_onBus {s : State} (h : ∀ g w rest, ¬ s.OnBus g w rest) :
    s.presented = none := by
  cases hp : s.presented with
  | none => rfl
  | some gw =>
    obtain ⟨g, w⟩ := gw
    exact absurd (State.presented_onBus hp) (h g w _)

/-- Settles O6: each line row by its one condition. -/
theorem linesAndTimebase : Obligations.LinesAndTimebase := by
  unfold Obligations.LinesAndTimebase
  refine ⟨fun p s => ⟨fun h => ?_, fun hq hr => ?_⟩, fun s => ⟨fun hr => ?_, fun hr => ?_⟩,
    fun held s h => ?_, fun s hg => ?_, fun s g hg => ?_⟩
  · change execStrobeRelease p s = _
    rw [execStrobeRelease, if_pos h]
    rfl
  · change execStrobeRelease p s = _
    rw [execStrobeRelease, if_neg (by simp [hq, hr])]
  · change execTimebaseTick s = _
    rw [execTimebaseTick, if_pos hr]
  · refine ⟨{ s with timebase := s.timebase + 1, refPeriods := s.refPeriods + s.straps.periods },
      ?_, rfl, ?_, ?_⟩
    · change execTimebaseTick s = _
      rw [execTimebaseTick, if_neg (by simp [hr])]
    · exact BitVec.toNat_add s.timebase 1
    · exact congrArg (s.refPeriods + ·) s.straps.periods_eq
  · change execStrayAcknowledge held s = _
    rw [execStrayAcknowledge, State.presented_of_not_onBus h]
  · simp only [exec, execAcknowledgeReleased, hg]
  · simp only [exec, execAcknowledgeReleased, hg]

/-! ## Accesses in BARE and LOADING -/

/-- An access that arrives in BARE claims one single operation with no class. -/
theorem exec_access_of_bare {c : Instr} {p : Port} {l : Lines} {s : State}
    (hc : accessOf c = some (p, l)) (ha : s.Accepts p) (hb : s.part = .bare)
    (hn : s.NoticeSettled) :
    exec c s = .next (s.arrived p l
      (.inMemory (l.latch s.timebase) none (.single (barePurpose s.straps l)) .waiting)) := by
  refine exec_access_of_taken hc ha hn ?_
  rw [State.takeAccess_of_bare p l _ (by simpa using hb), State.setEState_eq]
  simp

/-- Settles O7: in BARE an access claims raw, in LOADING it is held. -/
theorem bareCarriesRawAndLoadingHolds : Obligations.BareCarriesRawAndLoadingHolds :=
  ⟨fun _ _ _ _ hc ha hb hn => exec_access_of_bare hc ha hb hn,
    fun _ _ _ _ _ hc ha hl hn => exec_access_of_loading hc ha hl hn⟩

end Sys2Proof.Machine
end

section
/-! PROOFS. Settles O11 to O13 and O15: the request form, classification, conversion, and staging. -/

namespace Sys2Proof.Machine

/-! ## Lanes of words -/

theorem enabled_or (a b : Lanes) (k : Nat) :
    enabled (a ||| b) k = (enabled a k || enabled b k) := BitVec.getLsbD_or

theorem lane_mergeLanes (be : Lanes) (new old : Word) {k : Nat} (hk : k < 4) :
    lane (mergeLanes be new old) k = if enabled be k = true then lane new k else lane old k :=
  lane_ofLanes (fun j => if enabled be j = true then lane new j else lane old j) hk

/-- The pattern of four elements of one byte moves no lane. -/
theorem Pattern.p1111_mirrorLane {k : Nat} (hk : k < 4) : Pattern.p1111.mirrorLane k = k := by
  interval_cases k <;> rfl

theorem mirrorWord_p1111 (w : Word) : mirrorWord .p1111 w = w :=
  word_ext fun k hk => by rw [lane_mirrorWord _ _ hk, Pattern.p1111_mirrorLane hk]

theorem mirrorLanes_p1111 (be : Lanes) : mirrorLanes .p1111 be = be :=
  lanes_ext fun k hk => by rw [enabled_mirrorLanes _ _ hk, Pattern.p1111_mirrorLane hk]

theorem Pattern.p1111_underOrder (o : ByteOrder) : Pattern.p1111.underOrder o = .p1111 := by
  cases o <;> rfl

/-- One element of four bytes: a word mirrored is the word with its bytes in reverse. -/
theorem mirrorWord_p4 (b0 b1 b2 b3 : Byte) :
    mirrorWord .p4 (ofLanes b0 b1 b2 b3) = ofLanes b3 b2 b1 b0 := by
  have hlane := fun k (hk : k < 4) =>
    lane_ofLanes (fun k => match k with | 0 => b0 | 1 => b1 | 2 => b2 | _ => b3) hk
  change ofLanes (lane _ 3) (lane _ 2) (lane _ 1) (lane _ 0) = _
  rw [show lane (ofLanes b0 b1 b2 b3) 3 = b3 from hlane 3 (by decide),
    show lane (ofLanes b0 b1 b2 b3) 2 = b2 from hlane 2 (by decide),
    show lane (ofLanes b0 b1 b2 b3) 1 = b1 from hlane 1 (by decide),
    show lane (ofLanes b0 b1 b2 b3) 0 = b0 from hlane 0 (by decide)]

theorem inOrder_little (w : Word) : inOrder .little w = w := mirrorWord_p1111 w

/-! ## The request form (R15) -/

theorem highHalf_toNat (w : Word) : (highHalf w).toNat = w.toNat / 65536 := by
  rw [highHalf, BitVec.extractLsb'_toNat, Nat.shiftRight_eq_div_pow]
  exact Nat.mod_eq_of_lt (by omega)

/-- A count is the complement of another exactly if the two make 65,535. -/
theorem eq_complement_iff (a b : Count) : a = ~~~b ↔ a.toNat = 65535 - b.toNat := by
  rw [← BitVec.toNat_inj, BitVec.toNat_not]

theorem requestLength_little (be : Lanes) (raw : Word) (n : Nat) :
    requestLength .little be raw = some n ↔
      be = 15 ∧ n = raw.toNat % 65536 ∧ 13 ≤ n ∧ n ≤ 149 ∧ raw.toNat / 65536 = 65535 - n := by
  unfold requestLength
  dsimp only
  rw [inOrder_little]
  have hcomplement := eq_complement_iff (highHalf raw) (lowHalf raw)
  rw [highHalf_toNat] at hcomplement
  rw [← lowHalf_toNat]
  constructor
  · intro h
    split at h
    next hform =>
      obtain ⟨hbe, hlo, hhi, hc⟩ := hform
      cases h
      exact ⟨hbe, rfl, hlo, hhi, hcomplement.mp hc⟩
    · cases h
  · rintro ⟨hbe, rfl, hlo, hhi, hc⟩
    exact if_pos ⟨hbe, hlo, hhi, hcomplement.mpr hc⟩

theorem requestLength_big (be : Lanes) (b0 b1 b2 b3 : Byte) :
    requestLength .big be (ofLanes b0 b1 b2 b3)
      = requestLength .little be (ofLanes b3 b2 b1 b0) := by
  have horder : inOrder .big (ofLanes b0 b1 b2 b3) = inOrder .little (ofLanes b3 b2 b1 b0) := by
    rw [inOrder_little]
    exact mirrorWord_p4 b0 b1 b2 b3
  unfold requestLength
  rw [horder]

/-- Settles O11: the value of a LITTLE word is the word, of a BIG one the word with its bytes in
reverse. -/
theorem requestForm : Obligations.RequestForm := fun be raw n =>
  ⟨requestLength_little be raw n, fun b0 b1 b2 b3 => requestLength_big be b0 b1 b2 b3⟩

/-! ## Classification (R13) -/

section
variable {a : WAddr}

theorem offsetIn_of_within {base : WAddr} {words : Nat}
    (h : base.toNat ≤ a.toNat ∧ a.toNat < base.toNat + words) :
    offsetIn base words a = some (a.toNat - base.toNat) := if_pos h

theorem offsetIn_of_not_within {base : WAddr} {words : Nat}
    (h : ¬ (base.toNat ≤ a.toNat ∧ a.toNat < base.toNat + words)) :
    offsetIn base words a = none := if_neg h

/-- The address is in the ring region. -/
def inRegion (a : WAddr) (pl : RingPlace) : Prop :=
  pl.base.toNat ≤ a.toNat ∧ a.toNat < pl.base.toNat + pl.cap.regionWords

theorem classRing_of_within {pl : RingPlace} {q : Port} (h : inRegion a pl) :
    classRing (some pl) q a
      = some (.ring q (if a.toNat = pl.base.toNat then .producer
          else if a.toNat = pl.base.toNat + 1 then .consumer else .entry)) := by
  have hzero : (a.toNat - pl.base.toNat = 0) = (a.toNat = pl.base.toNat) := by
    have := h.1
    exact propext (by omega)
  have hone : (a.toNat - pl.base.toNat = 1) = (a.toNat = pl.base.toNat + 1) := by
    have := h.1
    exact propext (by omega)
  simp only [classRing, offsetIn_of_within h, ringRole, hzero, hone]

theorem classRing_of_not_within {r : Option RingPlace} {q : Port}
    (h : ∀ pl, r = some pl → ¬ inRegion a pl) : classRing r q a = none := by
  cases r with
  | none => rfl
  | some pl => simp only [classRing, offsetIn_of_not_within (h pl rfl)]

/-- The address is in the extent of the window. -/
def inExtent (a : WAddr) (w : Window) : Prop :=
  w.base.toNat ≤ a.toNat ∧ a.toNat < w.base.toNat + w.extent

/-- The first window of a kind whose extent holds the address gives its class. -/
theorem classIn_of_first {b : Bool} {l : List Window} {i k : Nat} {w : Window} (hw : l[i]? = some w)
    (hb : w.isRecord = b) (hin : inExtent a w)
    (hfirst : ∀ j < i, ∀ v, l[j]? = some v → v.isRecord = b → ¬ inExtent a v) :
    classIn b a l k = some (w.classAt (k + i) (a.toNat - w.base.toNat)) := by
  induction l generalizing i k with
  | nil => cases hw
  | cons v vs ih =>
    unfold classIn
    cases i with
    | zero =>
      cases hw
      rw [if_pos hb, offsetIn_of_within hin]
      rfl
    | succ i =>
      have hrest : classIn b a vs (k + 1) = some (w.classAt (k + (i + 1)) (a.toNat - w.base.toNat)) := by
        rw [← Nat.add_assoc, Nat.add_right_comm]
        exact ih hw fun j hj v hv => hfirst (j + 1) (Nat.succ_lt_succ hj) v hv
      split
      next hv => rw [offsetIn_of_not_within (hfirst 0 (Nat.zero_lt_succ i) v rfl hv), hrest]
      next => exact hrest

theorem classIn_of_none {b : Bool} {l : List Window} {k : Nat}
    (h : ∀ w ∈ l, w.isRecord = b → ¬ inExtent a w) : classIn b a l k = none := by
  induction l generalizing k with
  | nil => rfl
  | cons v vs ih =>
    obtain ⟨hv, hvs⟩ := List.forall_mem_cons.mp h
    unfold classIn
    split
    next hb => rw [offsetIn_of_not_within (hv hb), ih hvs]
    next => exact ih hvs

theorem Window.isRecord_of_record {w : Window} {spec : RecordSpec} (h : w.kind = .record spec) :
    w.isRecord = true := by
  simp only [Window.isRecord, h]

theorem Window.isRecord_of_plain {w : Window} {span : Nat} {ew : ElementWidth}
    (h : w.kind = .plain span ew) : w.isRecord = false := by
  simp only [Window.isRecord, h]

section
variable {m : RecordMap} {ib : WAddr}

/-- Past the IMAGE words the rings are looked at, then RECORD windows, then PLAIN windows. -/
theorem classify_past_image (h0 : a ≠ ib) (h1 : a ≠ ib + 1) :
    classify m ib a
      = ((((classRing m.rings.a .a a).or (classRing m.rings.b .b a)).or
          (classIn true a m.windows 0)).or (classIn false a m.windows 0)).getD .unmapped := by
  rw [classify, if_neg h0, if_neg h1]

theorem classify_of_ring {q : Port} {pl : RingPlace} (h0 : a ≠ ib) (h1 : a ≠ ib + 1)
    (hpl : m.rings.get q = some pl) (hin : inRegion a pl)
    (hfirst : q = .b → ∀ pl', m.rings.get .a = some pl' → ¬ inRegion a pl') :
    classify m ib a
      = .ring q (if a.toNat = pl.base.toNat then .producer
          else if a.toNat = pl.base.toNat + 1 then .consumer else .entry) := by
  have hq := classRing_of_within (q := q) hin
  rw [← hpl] at hq
  rw [classify_past_image h0 h1]
  cases q with
  | a =>
    rw [show classRing m.rings.a .a a = _ from hq]
    rfl
  | b =>
    have ha : classRing m.rings.a .a a = none := classRing_of_not_within (hfirst rfl)
    rw [ha, show classRing m.rings.b .b a = _ from hq]
    rfl

theorem classify_past_rings (h0 : a ≠ ib) (h1 : a ≠ ib + 1)
    (h : ∀ q pl, m.rings.get q = some pl → ¬ inRegion a pl) :
    classify m ib a
      = ((classIn true a m.windows 0).or (classIn false a m.windows 0)).getD .unmapped := by
  have ha : classRing m.rings.a .a a = none := classRing_of_not_within (h .a)
  have hb : classRing m.rings.b .b a = none := classRing_of_not_within (h .b)
  rw [classify_past_image h0 h1, ha, hb]
  rfl

end

end

/-- Settles O12: each condition of the table, given that those before it do not hold. -/
theorem classificationFollowsTheTable : Obligations.ClassificationFollowsTheTable := by
  intro m ib a inRing inWindow
  refine ⟨fun h => if_pos h, fun h => ?_, fun h0 h1 => ⟨?rings, fun hna hnb => ⟨?records, fun hnr =>
    ⟨?plain, ?unmapped⟩⟩⟩⟩
  · have hne : a ≠ ib := by
      bv_omega
    rw [classify, if_neg hne, if_pos h]
  case rings =>
    intro q pl hpl hin hfirst
    obtain ⟨pl', hpl', hin'⟩ := hin
    obtain rfl : pl = pl' := Option.some.inj (hpl.symm.trans hpl')
    exact classify_of_ring h0 h1 hpl hin' fun hq pl' hpl' hin' => hfirst hq ⟨pl', hpl', hin'⟩
  all_goals
    have hrings := classify_past_rings (m := m) h0 h1 fun q pl hpl hin => by
      cases q with
      | a => exact hna ⟨pl, hpl, hin⟩
      | b => exact hnb ⟨pl, hpl, hin⟩
  case records =>
    intro i w spec hw hk hin hfirst
    have hclass := classIn_of_first (k := 0) hw (Window.isRecord_of_record hk) hin hfirst
    simp only [hrings, hclass, Option.some_or, Option.getD_some, Window.classAt, hk, Nat.zero_add]
    rfl
  all_goals
    have hnone := classIn_of_none (k := 0) hnr
    rw [hrings, hnone, Option.none_or]
  case plain =>
    intro i w span ew hw hk hin hfirst
    have hclass := classIn_of_first (k := 0) hw (Window.isRecord_of_plain hk) hin
      fun j hj v hv _ => hfirst j hj v hv
    simp only [hclass, Option.getD_some, Window.classAt, hk, Nat.zero_add]
  case unmapped =>
    intro hnw
    rw [classIn_of_none fun w hw _ => hnw w hw]
    rfl

/-! ## Conversion (R25 to R33) -/

theorem RecordMap.spec_of_record {m : RecordMap} {w : Nat} {win : Window} {spec : RecordSpec}
    (hw : m.windows[w]? = some win) (hk : win.kind = .record spec) : m.spec w = spec := by
  obtain ⟨base, kind, rights⟩ := win
  subst hk
  simp only [RecordMap.spec, hw]

theorem RecordMap.pattern_of_data {m : RecordMap} {w r o : Nat} {b : WAddr} {cl : Bool}
    {win : Window} {spec : RecordSpec} {lay : Layout} {pat : Pattern}
    (hw : m.windows[w]? = some win) (hk : win.kind = .record spec)
    (hl : m.layouts[spec.layout]? = some lay)
    (hp : lay.patterns[o - (if spec.stamp then 1 else 0)]? = some pat) :
    m.pattern (.record w r o b (.data cl)) = pat := by
  simp only [RecordMap.pattern, RecordMap.dataPattern, RecordMap.spec_of_record hw hk, hl,
    RecordSpec.firstData, List.getD_eq_getElem?_getD, hp, Option.getD_some]

theorem RecordMap.pattern_of_plain {m : RecordMap} {w : Nat} {win : Window} {span : Nat}
    {ew : ElementWidth} (hw : m.windows[w]? = some win) (hk : win.kind = .plain span ew) :
    m.pattern (.plain w) = ew.pattern := by
  obtain ⟨base, kind, rights⟩ := win
  subst hk
  simp only [RecordMap.pattern, hw]

/-- Settles O13: the pattern of the class as the port's ORDER makes it act. -/
theorem conversionFollowsTheClass : Obligations.ConversionFollowsTheClass := by
  intro m p l s t
  have hconv : t.conv = (m.pattern t.cls).underOrder (m.settings.get p).order := rfl
  have hbe : t.be = mirrorLanes t.conv l.be := rfl
  have hdata : t.data = mirrorWord t.conv l.data := rfl
  have hraw : t.conv = .p1111 → t.be = l.be ∧ t.data = l.data := fun h => by
    rw [hbe, hdata, h]
    exact ⟨mirrorLanes_p1111 _, mirrorWord_p1111 _⟩
  refine ⟨⟨rfl, hbe, hdata⟩, fun ho => hraw (by rw [hconv, ho]; rfl), fun ho => ?_⟩
  have hbig : t.conv = m.pattern t.cls := by rw [hconv, ho]; rfl
  refine ⟨fun q role hc => ?_, fun w r o b hc => ?_, fun w r o b cl spec lay pat win hc hw hk hl hp => ?_,
    fun w win span ew hc hw hk => ?_, fun hc => hraw ?_⟩
  · rw [hbig, hc]
    rfl
  · rw [hbig]
    obtain hc | hc := hc <;> rw [hc] <;> rfl
  · rw [hbig, hc, RecordMap.pattern_of_data hw hk hl hp]
  · rw [hbig, hc, RecordMap.pattern_of_plain hw hk]
    cases ew <;> rfl
  · rw [hbig]
    obtain hc | ⟨w, hc⟩ := hc <;> rw [hc] <;> rfl

/-! ## The closing condition (R47) -/

/-- A record of one word, its check word. -/
def checkWordAlone : RecordSpec :=
  { reclen := 1, reccnt := 1, mode := .full, policy := .last, stamp := false, check := true,
    layout := 0 }

/-- Refutes O15: a record of one word that is its check word has no data word, so that FULL closes with
nothing staged, while the offsets of the statement, 0 to 0, name the check word. (RANGE admits no such
window, R153, but the statement does not ask for RECLEN to be 2 or more.) -/
theorem not_stagingAndTheClosingCondition : ¬ Obligations.StagingAndTheClosingCondition := by
  rintro ⟨-, h⟩
  have hclose := (h checkWordAlone [{ mask := 0, bytes := 0 }] rfl (by decide) (by decide)).1 rfl
  have hmask := hclose.mp (by decide) 0 { mask := 0, bytes := 0 } (by decide) (by decide) rfl
  exact absurd hmask (by decide)

end Sys2Proof.Machine
end

section
/-! PROOFS. Settles O9, O10, O16 to O18, O20 and O31: what an access row means in ACTIVE, class by
class. -/

namespace Sys2Proof.Machine

/-! ## From an access row to the handling of its class (R165) -/

/-- The state in which a port presents these lines. -/
def State.presenting (s : State) (p : Port) (l : Lines) : State :=
  s.setPins p { s.pins.get p with strobe := some l }

section
variable (s : State) (p : Port) (l : Lines)

@[simp] theorem State.presenting_engines : (s.presenting p l).engines = s.engines := rfl
@[simp] theorem State.presenting_part : (s.presenting p l).part = s.part := rfl
@[simp] theorem State.presenting_straps : (s.presenting p l).straps = s.straps := rfl
@[simp] theorem State.presenting_timebase : (s.presenting p l).timebase = s.timebase := rfl
@[simp] theorem State.presenting_rings : (s.presenting p l).rings = s.rings := rfl
@[simp] theorem State.presenting_spec (w : Nat) : (s.presenting p l).spec w = s.spec w := rfl

@[simp] theorem State.presenting_pins :
    (s.presenting p l).pins.get p = { strobe := some l, out := (s.pins.get p).out } :=
  Both.get_set_self _ _ _

@[simp] theorem State.withPort_presenting (e : Engine) (x : Pins) :
    (s.presenting p l).withPort p e x = s.withPort p e x :=
  s.withPort_setPins p _ x e

end

theorem State.spec_of_active {s : State} {m : RecordMap} (h : s.part = .active m) (w : Nat) :
    s.spec w = m.spec w := by
  simp only [State.spec, State.map, h]

section
variable {c : Instr} {p : Port} {l : Lines} {s : State} {m : RecordMap}

/-- An access row that is not null means in ACTIVE what its class asks for. -/
theorem exec_classed (hc : accessOf c = some (p, l)) (ha : s.Accepts p) (hm : s.part = .active m)
    (hbe : l.be ≠ 0) {u : State} {reports : List Report}
    (h : (s.presenting p l).takeClassed m p (l.latch s.timebase) (s.takenOf m p l) = (u, reports)) :
    exec c s = .next ((u.raiseAll reports).chooseBeside p) := by
  have htake : (s.presenting p l).taking p (l.latch s.timebase) = (u, reports) := by
    rw [State.taking, State.presenting_part, hm]
    exact (if_neg hbe).trans h
  have hreceived : (s.presenting p l).takeAccess p (l.latch s.timebase) = u.raiseAll reports := by
    rw [State.takeAccess, htake]
    rfl
  rw [exec_access hc, State.present_accepts l ha]
  exact congrArg (fun v : State => Host.Outcome.next (v.chooseBeside p)) hreceived

/-- An access that changes its port's share alone, beside a settled Notice Unit. -/
theorem exec_classed_silent (hc : accessOf c = some (p, l)) (ha : s.Accepts p)
    (hm : s.part = .active m) (hbe : l.be ≠ 0) (hn : s.NoticeSettled) {e : Engine} {x : Pins}
    (h : (s.presenting p l).takeClassed m p (l.latch s.timebase) (s.takenOf m p l)
      = (s.withPort p e x, [])) : exec c s = .next (s.withPort p e x) := by
  rw [exec_classed hc ha hm hbe h]
  exact congrArg Host.Outcome.next (State.chooseBeside_of_settled (hn.withPort p e x))

/-- An access that ends at once with one notice: the Notice Unit then makes its choice. -/
theorem exec_classed_reported (hc : accessOf c = some (p, l)) (ha : s.Accepts p)
    (hm : s.part = .active m) (hbe : l.be ≠ 0) {o : PortOut} {r : Report}
    (h : (s.presenting p l).takeClassed m p (l.latch s.timebase) (s.takenOf m p l)
      = (s.endedAtOnce p l o, [r])) :
    exec c s = .next ((s.endedAtOnce p l o).raise r).chooseNotice := by
  rw [exec_classed hc ha hm hbe h]
  refine congrArg Host.Outcome.next (State.chooseBeside_of_not_waiting ?_)
  change (((s.endedAtOnce p l o).raise r).engines.get p).waiting = false
  rw [State.raise_engines, State.endedAtOnce, State.withPort_engines, Both.get_set_self]
  rfl

theorem State.presenting_endFault (s : State) (p : Port) (l : Lines) (now : Time) :
    (s.presenting p l).endFault p (l.latch now)
      = s.endedAtOnce p l (.fault (dataOn l.dir 0)) := by
  rw [State.endFault_eq]
  simp only [State.presenting_engines, State.presenting_pins, State.withPort_presenting, Lines.latch]
  rfl

theorem State.presenting_endReady (s : State) (p : Port) (l : Lines) (now : Time) (w : Word) :
    (s.presenting p l).endReady p (l.latch now) w
      = s.endedAtOnce p l (.ready (dataOn l.dir w)) := by
  rw [State.endReady_eq]
  simp only [State.presenting_engines, State.presenting_pins, State.withPort_presenting, Lines.latch]
  rfl

theorem State.presenting_claim (s : State) (p : Port) (l : Lines) (acc : Access) (t : Option Taken)
    (job : Job) :
    (s.presenting p l).claim p acc t job = s.arrived p l (.inMemory acc t job .waiting) := by
  rw [State.claim_eq]
  simp only [State.presenting_engines, State.presenting_pins, State.withPort_presenting]
  rfl

/-! ## Refused or not (R14 to R21) -/

theorem Rights.allows_read (x : Rights) : x.allows .read = true ↔ x ≠ .none := by
  cases x <;> decide

theorem Rights.allows_write (x : Rights) : x.allows .write = true ↔ x = .readWrite := by
  cases x <;> decide

/-- The table of refusals is what the meanings of the classes refuse (R20). -/
theorem State.takeClassed_of_refused {t : Taken} {why : RefusalReason} {now : Time}
    (h : refusalOf m s.straps.imgOrd p l t.cls = some why) :
    s.takeClassed m p (l.latch now) t = s.refuse p (l.latch now) t.cls why := by
  unfold refusalOf at h
  unfold State.takeClassed
  cases hc : t.cls with
  | image word =>
    rw [hc] at h
    cases word <;> cases hd : l.dir <;> simp only [hd, reduceCtorEq] at h
    cases hn : requestLength s.straps.imgOrd l.be l.data with
    | none => simp [hn] at h
    | some n =>
      cases hr : (m.settings.get p).loadRight <;> simp [hn, hr] at h
      simp [State.takeImage, Lines.latch, hd, hn, hr, hc, h]
  | ring q role =>
    rw [hc] at h
    cases hd : l.dir <;> cases role <;> simp only [hd, reduceCtorEq, Option.some.injEq] at h
    · simp [State.takeRing, Lines.latch, hd, hc, h]
    · simp [State.takeRing, Lines.latch, hd, hc, h]
  | record w r o b role =>
    rw [hc] at h
    cases hd : l.dir with
    | read =>
      simp only [hd, Option.ite_none_right_eq_some, Option.some.injEq] at h
      obtain ⟨hnone, rfl⟩ := h
      simp [State.takeRecord, Lines.latch, hd, hc, hnone, Rights.allows, rightsReason]
    | write =>
      simp only [hd] at h
      split at h
      next hrw =>
        cases role <;> simp only [reduceCtorEq, Option.some.injEq] at h
        · simp [State.takeRecord, Lines.latch, hd, hc, hrw, Rights.allows, h]
        · simp [State.takeRecord, Lines.latch, hd, hc, hrw, Rights.allows, h]
      next hrw =>
        cases h
        have := mt (Rights.allows_write _).mp hrw
        simp [State.takeRecord, Lines.latch, hd, hc, this, rightsReason]
  | plain w =>
    rw [hc] at h
    cases hd : l.dir with
    | read =>
      simp only [hd, Option.ite_none_right_eq_some, Option.some.injEq] at h
      obtain ⟨hnone, rfl⟩ := h
      simp [State.takePlain, Lines.latch, hd, hc, hnone, Rights.allows, rightsReason]
    | write =>
      simp only [hd, Option.ite_none_left_eq_some, Option.some.injEq] at h
      obtain ⟨hrw, rfl⟩ := h
      have := mt (Rights.allows_write _).mp hrw
      simp [State.takePlain, Lines.latch, hd, hc, this, rightsReason]
  | unmapped =>
    rw [hc] at h
    cases hd : l.dir <;> cases hu : (m.settings.get p).unmapped <;>
      simp only [hd, hu, reduceCtorEq, if_true, if_false, Option.some.injEq] at h <;>
      simp [State.takeUnmapped, Lines.latch, hd, hu, hc, h]

/-- Rights allow the direction of an access that is not refused (R14). -/
theorem allows_of_plain {o : ByteOrder} {w : Nat} (h : refusalOf m o p l (.plain w) = none) :
    (m.rightsIn p w).allows l.dir = true := by
  cases hd : l.dir with
  | read =>
    simp only [refusalOf, hd, ite_eq_right_iff, reduceCtorEq, imp_false] at h
    exact (Rights.allows_read _).mpr h
  | write =>
    simp only [refusalOf, hd, ite_eq_left_iff, reduceCtorEq, imp_false, not_not] at h
    exact (Rights.allows_write _).mpr h

theorem allows_of_record {o' : ByteOrder} {w r o : Nat} {b : WAddr} {role : WordRole}
    (h : refusalOf m o' p l (.record w r o b role) = none) :
    (m.rightsIn p w).allows l.dir = true := by
  cases hd : l.dir with
  | read =>
    simp only [refusalOf, hd, ite_eq_right_iff, reduceCtorEq, imp_false] at h
    exact (Rights.allows_read _).mpr h
  | write =>
    simp only [refusalOf, hd] at h
    split at h
    next hrw => exact (Rights.allows_write _).mpr hrw
    next => cases h

/-- An access that is carried singly is claimed as an ordinary single operation. -/
theorem State.takeClassed_of_carried {t : Taken} {now : Time}
    (h : refusalOf m s.straps.imgOrd p l t.cls = none)
    (hs : carriedSingly s.straps.imgOrd l t.cls t.be) :
    s.takeClassed m p (l.latch now) t = s.claimSingle p (l.latch now) (some t) := by
  unfold State.takeClassed
  cases hc : t.cls with
  | image word =>
    cases word with
    | status => cases hd : l.dir <;> simp [State.takeImage, Lines.latch, hd]
    | request =>
      cases hd : l.dir with
      | read => simp [State.takeImage, Lines.latch, hd]
      | write =>
        simp only [carriedSingly, hc, hd] at hs
        simp [State.takeImage, Lines.latch, hd, hs]
  | ring q role =>
    cases hd : l.dir with
    | read => simp [State.takeRing, Lines.latch, hd]
    | write =>
      cases role with
      | producer | entry => simp [refusalOf, hc, hd] at h
      | consumer =>
        simp only [carriedSingly, hc, hd, ← Bool.and_eq_true] at hs
        simp [State.takeRing, State.takeConsumer, Lines.latch, hd, hs]
  | record w r o b role =>
    simp only [carriedSingly, hc] at hs
  | plain w =>
    have hallow := allows_of_plain (hc ▸ h)
    simp [State.takePlain, Lines.latch, hallow]
  | unmapped =>
    cases hd : l.dir <;> cases hu : (m.settings.get p).unmapped <;>
      simp only [refusalOf, hc, hd, hu, reduceCtorEq, if_true, if_false] at h <;>
      simp [State.takeUnmapped, Lines.latch, hd, hu]

/-- A read of a record that is not refused goes to the tables (R38). -/
theorem State.takeClassed_of_read {t : Taken} {now : Time} {w r o : Nat} {b : WAddr}
    {role : WordRole} (hc : t.cls = .record w r o b role)
    (h : refusalOf m s.straps.imgOrd p l t.cls = none) (hd : l.dir = .read) :
    s.takeClassed m p (l.latch now) t = (s.readRecord p (l.latch now) t w r o b, []) := by
  have hallow := allows_of_record (hc ▸ h)
  rw [hd] at hallow
  simp [State.takeClassed, hc, State.takeRecord, Lines.latch, hd, hallow]

/-- A write to a data word of a record that is not refused goes to the Session Table (R38). -/
theorem State.takeClassed_of_write {t : Taken} {now : Time} {w r o : Nat} {b : WAddr} {cl : Bool}
    (hc : t.cls = .record w r o b (.data cl))
    (h : refusalOf m s.straps.imgOrd p l t.cls = none) (hd : l.dir = .write) :
    s.takeClassed m p (l.latch now) t = s.writeRecord p (l.latch now) t w r o b := by
  have hallow := allows_of_record (hc ▸ h)
  rw [hd] at hallow
  simp [State.takeClassed, hc, State.takeRecord, Lines.latch, hd, hallow]

end

/-- Settles O9: the access is refused as the table says, and its notice received. -/
theorem refusedAccessEndsFault : Obligations.RefusedAccessEndsFault := by
  intro c p l s m why hc ha hm hbe hwhy
  refine exec_classed_reported hc ha hm hbe ?_
  have h := State.takeClassed_of_refused (s := s.presenting p l) (t := s.takenOf m p l)
    (now := s.timebase) hwhy
  rw [h, State.refuse, State.presenting_endFault]
  rfl

/-- Settles O10: an admitted access claims its single operation, and a request write its own. -/
theorem admittedAccessClaimsOneOperation : Obligations.AdmittedAccessClaimsOneOperation := by
  constructor
  · rintro c p l s m hc ⟨ha, hm, hbe, href⟩ hs hn
    refine exec_classed_silent hc ha hm hbe hn ?_
    rw [State.takeClassed_of_carried (s := s.presenting p l) (t := s.takenOf m p l) href hs, State.claimSingle,
      State.presenting_claim]
    rfl
  · intro c p l s m n hc ha hm hn haddr hd hright hreq
    have hcls : (s.takenOf m p l).cls = .image .request := if_pos haddr
    have hconv : (s.takenOf m p l).conv = .p1111 := by
      have hp : (s.takenOf m p l).conv
        = (m.pattern (s.takenOf m p l).cls).underOrder (m.settings.get p).order := rfl
      rw [hp, hcls]
      exact Pattern.p1111_underOrder _
    have hbe : l.be ≠ 0 := by
      intro h0
      rw [h0, requestLength_no_enables] at hreq
      cases hreq
    refine ⟨s.takenOf m p l, hcls, ?_, ?_, exec_classed_silent hc ha hm hbe hn ?_⟩
    · exact (congrArg (mirrorLanes · l.be) hconv).trans (mirrorLanes_p1111 _)
    · exact (congrArg (mirrorWord · l.data) hconv).trans (mirrorWord_p1111 _)
    · have htake : (s.presenting p l).takeClassed m p (l.latch s.timebase) (s.takenOf m p l)
          = ((s.presenting p l).claim p (l.latch s.timebase) (some (s.takenOf m p l))
              (.single (.request n)), []) := by
        simp [State.takeClassed, hcls, State.takeImage, Lines.latch, hd, hreq, hright]
      rw [htake, State.presenting_claim]
      rfl

end Sys2Proof.Machine
end

section
/-! PROOFS. Settles O16 to O18, O20 and O31: record accesses and watched writes. -/

namespace Sys2Proof.Machine

section
variable {c : Instr} {p : Port} {l : Lines} {s : State} {m : RecordMap}

/-! ## Writes staged (R46 to R48) -/

/-- A write staged in a session that the port has of the record. -/
theorem State.presenting_stageWrite {w r o : Nat} {t : Taken} {ses : Session} {now : Time}
    (hm : s.part = .active m) (hses : (s.engines.get p).sessionOf w r = some ses)
    (hd : l.dir = .write) :
    (s.presenting p l).stageWrite p (l.latch now) t ses o
      = if (m.spec w).closes (ses.place o t.be t.data).stage = true then
          s.withPort p
            { estate := .inMemory (l.latch now) (some t) .commit .waiting,
              sessions := (s.engines.get p).sessions.map fun y =>
                if y.window == w && y.record == r then
                  { ses.place o t.be t.data with state := .closing } else y,
              captures := (s.engines.get p).captures }
            { strobe := some l, out := (s.pins.get p).out }
        else
          s.withPort p
            { estate := .idle,
              sessions := (s.engines.get p).sessions.map fun y =>
                if y.window == w && y.record == r then
                  { ses.place o t.be t.data with state := .open } else y,
              captures := (s.engines.get p).captures }
            { strobe := some l, out := .ready none } := by
  obtain ⟨hw, hr, -⟩ := Engine.sessionOf_key hses
  have hw' : (ses.place o t.be t.data).window = w := hw
  have hr' : (ses.place o t.be t.data).record = r := hr
  rw [State.stageWrite_eq]
  simp only [State.presenting_spec, State.spec_of_active hm, hw, State.presenting_engines,
    State.presenting_pins, State.withPort_presenting, putSession_eq, hw', hr',
    Lines.latch, hd, dataOn]

end

/-- Settles O16: a write of a record with a session is staged in it. -/
theorem writeIsStagedInItsSession : Obligations.WriteIsStagedInItsSession := by
  rintro c p l s m w r o b cl ses hc ⟨ha, hm, hbe, href⟩ hd hcls hses hn t placed put
  have htake : (s.presenting p l).takeClassed m p (l.latch s.timebase) (s.takenOf m p l)
      = ((s.presenting p l).stageWrite p (l.latch s.timebase) (s.takenOf m p l) ses o, []) := by
    rw [State.takeClassed_of_write (s := s.presenting p l) (t := s.takenOf m p l) hcls href hd,
      State.writeRecord, State.presenting_engines, hses]
  rw [State.presenting_stageWrite hm hses hd] at htake
  split at htake
  next hclose => rw [exec_classed_silent hc ha hm hbe hn htake, if_pos hclose]
  next hclose => rw [exec_classed_silent hc ha hm hbe hn htake, if_neg hclose]

/-! ## Sessions opened (R39 to R42, R100) -/

/-- The Notice Unit's choice beside a claim, by its conditions. -/
theorem State.chooseBeside_alone {s : State} {p : Port}
    (h : ¬ (s.granted = none ∧ (s.engines.get p).waiting = true ∧ s.noticeClaim = none
      ∧ s.noticeChoice ≠ none)) : s.chooseBeside p = s.chooseNotice := by
  refine if_neg fun hcond => h ?_
  simp only [Bool.and_eq_true, Option.isNone_iff_eq_none, Option.isSome_iff_ne_none] at hcond
  obtain ⟨⟨⟨hg, hw⟩, hc⟩, hch⟩ := hcond
  exact ⟨hg, hw, hc, hch⟩

theorem State.chooseNotice_of_unclaimed {s : State} (hg : s.granted = none)
    (hc : s.noticeClaim = none) : s.chooseNotice = { s with noticeClaim := s.noticeChoice } := by
  have hb : s.burstCarried = false := by simp only [State.burstCarried, hg]
  exact if_pos (by rw [hc, hb]; rfl)

/-- Two claims made together at an idle Memory Port, in the order of the free value (log entry 24). -/
theorem State.chooseBeside_two {s : State} {p : Port} (hg : s.granted = none)
    (hw : (s.engines.get p).waiting = true) (hc : s.noticeClaim = none)
    (hch : s.noticeChoice ≠ none) :
    s.chooseBeside p
      = match Config.freeOrder s.freeCount with
        | .together => { s with freeCount := s.freeCount + 1 }.chooseNotice
        | .first => { s with freeCount := s.freeCount + 1 }.arbitrate.chooseNotice
        | .second =>
          (({ s with
              freeCount := s.freeCount + 1
              noticeClaim := s.noticeChoice
              engines := s.engines.set p { s.engines.get p with estate := .idle } }.arbitrate).setEState
            p (s.engines.get p).estate).chooseNotice := by
  have halone : ({ s with freeCount := s.freeCount + 1 }.setEState p .idle).chooseNotice
      = { s with
          freeCount := s.freeCount + 1
          noticeClaim := s.noticeChoice
          engines := s.engines.set p { s.engines.get p with estate := .idle } } :=
    State.chooseNotice_of_unclaimed (s := { s with freeCount := s.freeCount + 1 }.setEState p .idle)
      hg hc
  refine (if_pos ?_).trans ?_
  · simp [hg, hw, hc, Option.isSome_iff_ne_none, hch]
  · cases Config.freeOrder s.freeCount with
    | together | first => rfl
    | second =>
      exact congrArg (fun v : State =>
        (v.arbitrate.setEState p (s.engines.get p).estate).chooseNotice) halone

/-- What opening a session in a window that is not GUARDED leaves of the ports (R41). -/
theorem State.presenting_openSession_last {s : State} {p : Port} {l : Lines} {m : RecordMap}
    {t : Taken} {w r : Nat} (o : Nat) (b : WAddr) (hm : s.part = .active m)
    (hpol : (m.spec w).policy = .last) (hnone : (s.engines.get p).sessionOf w r = none)
    (hd : l.dir = .write) :
    (s.presenting p l).openSession p (l.latch s.timebase) t w r o b
      = (if (m.spec w).closes (openedSession w r o b (m.spec w).reclen s.timebase t).stage = true then
          s.withPort p
            { estate := .inMemory (l.latch s.timebase) (some t) .commit .waiting,
              sessions := Machine.roomForSession (s.engines.get p).sessions
                ++ [{ openedSession w r o b (m.spec w).reclen s.timebase t with state := .closing }],
              captures := capturesBut w r (s.engines.get p).captures }
            { strobe := some l, out := (s.pins.get p).out }
        else
          s.withPort p
            { estate := .idle,
              sessions := Machine.roomForSession (s.engines.get p).sessions
                ++ [{ openedSession w r o b (m.spec w).reclen s.timebase t with state := .open }],
              captures := capturesBut w r (s.engines.get p).captures }
            { strobe := some l, out := .ready none },
        evictions p (s.engines.get p).sessions) := by
  rw [State.openSession_last (s := s.presenting p l) p (l.latch s.timebase) t o b
    (by rw [State.presenting_spec, State.spec_of_active hm, hpol]) hnone]
  simp only [State.presenting_spec, State.spec_of_active hm, State.presenting_engines,
    State.presenting_pins, State.presenting_timebase, State.withPort_presenting, Lines.latch, hd,
    dataOn]

/-- What opening a session in a GUARDED window leaves of the ports (R42). -/
theorem State.presenting_openSession_guarded {s : State} {p : Port} {l : Lines} {m : RecordMap}
    {t : Taken} {w : Nat} (r o : Nat) (b : WAddr) (now : Time) (hm : s.part = .active m)
    (hpol : (m.spec w).policy = .guarded) :
    (s.presenting p l).openSession p (l.latch now) t w r o b
      = (s.withPort p
          { estate := .inMemory (l.latch now) (some t) .stampRead .waiting,
            sessions := Machine.roomForSession (s.engines.get p).sessions
              ++ [newSession w r b (m.spec w).reclen],
            captures := capturesBut w r (s.engines.get p).captures }
          { strobe := some l, out := (s.pins.get p).out },
        evictions p (s.engines.get p).sessions) := by
  rw [State.openSession_guarded (s := s.presenting p l) p (l.latch now) t r o b
    (by rw [State.presenting_spec, State.spec_of_active hm, hpol])]
  simp only [State.presenting_spec, State.spec_of_active hm, State.presenting_engines,
    State.presenting_pins, State.withPort_presenting]

/-- A write of a record without a session goes to the opening of one (R38, R39). -/
theorem State.takeClassed_opens {s : State} {m : RecordMap} {p : Port} {l : Lines} {t : Taken}
    {now : Time} {w r o : Nat} {b : WAddr} {cl : Bool} (hc : t.cls = .record w r o b (.data cl))
    (h : refusalOf m s.straps.imgOrd p l t.cls = none) (hd : l.dir = .write)
    (hnone : (s.engines.get p).sessionOf w r = none) :
    s.takeClassed m p (l.latch now) t = s.openSession p (l.latch now) t w r o b := by
  rw [State.takeClassed_of_write hc h hd, State.writeRecord, hnone]

/-- Settles O17: a session opened in a window of each POLICY, and the two claims beside each other. -/
theorem writeOpensASession : Obligations.WriteOpensASession := by
  refine ⟨?last, ?guarded, fun s p => ⟨State.chooseBeside_alone, ?beside⟩⟩
  case last =>
    rintro c p l s m w r o b cl hc ⟨ha, hm, hbe, href⟩ hd hcls hnone hpol t old caps fresh placed
    have htake := State.takeClassed_opens (s := s.presenting p l) (t := t) (now := s.timebase) hcls
      href hd hnone
    rw [State.presenting_openSession_last o b hm hpol hnone hd] at htake
    rw [exec_classed hc ha hm hbe htake, State.raiseAll_evictions]
    rfl
  case guarded =>
    rintro c p l s m w r o b cl hc ⟨ha, hm, hbe, href⟩ hd hcls hnone hpol old fresh
    have htake := State.takeClassed_opens (s := s.presenting p l) (t := s.takenOf m p l)
      (now := s.timebase) hcls href hd hnone
    rw [State.presenting_openSession_guarded r o b s.timebase hm hpol] at htake
    rw [exec_classed hc ha hm hbe htake, State.raiseAll_evictions]
    rfl
  case beside =>
    rintro ⟨hg, hw, hc, hch⟩
    rw [State.chooseBeside_two hg hw hc hch]
    cases Config.freeOrder s.freeCount <;> rfl

/-! ## Reads of a record (R50, R79 to R88) -/

/-- Every lane asked for is staged exactly if none is left to memory (R50). -/
theorem Staged.unserved_zero_iff (st : Staged) (be : Lanes) :
    st.unserved be = 0 ↔ ∀ k < 4, enabled be k = true → enabled st.mask k = true := by
  have hbit : ∀ k < 4, enabled (st.unserved be) k = (enabled be k && !enabled st.mask k) := by
    intro k hk
    simp [Staged.unserved, enabled, hk]
  constructor
  · intro h k hk he
    have := hbit k hk
    rw [h, he, show enabled 0 k = false from BitVec.getLsbD_zero] at this
    simpa using this
  · intro h
    refine lanes_ext fun k hk => ?_
    rw [hbit k hk, show enabled 0 k = false from BitVec.getLsbD_zero]
    cases he : enabled be k with
    | false => rfl
    | true => rw [h k hk he]; rfl

/-- Settles O18: the own read by the lanes left to memory. -/
theorem ownReadIsServedFromItsSession : Obligations.OwnReadIsServedFromItsSession := by
  rintro c p l s m w r o b role ses hc ⟨ha, hm, hbe, href⟩ hd hcls hses hn t st
  have htake : (s.presenting p l).takeClassed m p (l.latch s.timebase) t
      = ((s.presenting p l).ownRead p (l.latch s.timebase) t ses o, []) := by
    rw [State.takeClassed_of_read (s := s.presenting p l) (t := t) hcls href hd, State.readRecord,
      State.presenting_engines, hses]
  unfold State.ownRead at htake
  change _ = (if st.unserved t.be = 0 then _ else _, _) at htake
  constructor
  · intro hall
    rw [if_pos ((Staged.unserved_zero_iff st t.be).mpr hall), State.presenting_endReady, hd] at htake
    exact exec_classed_silent hc ha hm hbe hn htake
  · rintro ⟨k, hk, he, hmask⟩
    have hne : ¬ st.unserved t.be = 0 := fun h0 => by
      have := (Staged.unserved_zero_iff st t.be).mp h0 k hk he
      rw [hmask] at this
      cases this
    rw [if_neg hne, State.presenting_claim] at htake
    exact exec_classed_silent hc ha hm hbe hn htake

/-- Settles O20: the word not yet read from a LIVE capture, or a new capture. -/
theorem readIsServedOrTakesACapture : Obligations.ReadIsServedOrTakesACapture := by
  constructor
  · rintro c p l s m w r o b role cap lv hc ⟨ha, hm, hbe, href⟩ hd hcls hnone hcap hlive hread hn t
      data cap' caps
    obtain ⟨hw, hr, -⟩ := Engine.captureOf_key hcap
    have htake : (s.presenting p l).takeClassed m p (l.latch s.timebase) t
        = ((s.presenting p l).serve p (l.latch s.timebase) t cap lv o, []) := by
      rw [State.takeClassed_of_read (s := s.presenting p l) (t := t) hcls href hd, State.readRecord,
        State.presenting_engines, hnone]
      simp only [hcap, hlive, Capture.wasRead, hread, Bool.false_eq_true, if_false]
    have hw' : (cap.mark o).window = w := hw
    have hr' : (cap.mark o).record = r := hr
    have hdir : (l.latch s.timebase).dir = .read := hd
    rw [State.serve_eq] at htake
    simp only [State.presenting_engines, State.presenting_pins, State.withPort_presenting,
      putCapture_eq, hw, hr, hw', hr', hdir, dataOn] at htake
    exact exec_classed_silent hc ha hm hbe hn htake
  · rintro c p l s m w r o b role hc ⟨ha, hm, hbe, href⟩ hd hcls hnone hcap hn
    have hread : (s.presenting p l).readRecord p (l.latch s.timebase) (s.takenOf m p l) w r o b
        = (s.presenting p l).takeCapture p (l.latch s.timebase) (s.takenOf m p l) w r b := by
      unfold State.readRecord
      rw [State.presenting_engines, hnone]
      cases hcapture : (s.engines.get p).captureOf w r with
      | none => rfl
      | some cap =>
        obtain hlive | hmask := hcap cap hcapture
        · simp only [hlive]
        · cases hlive : cap.live with
          | none => simp only [hlive]
          | some lv => simp only [hlive, Capture.wasRead, hmask, if_true]
    have htake : (s.presenting p l).takeClassed m p (l.latch s.timebase) (s.takenOf m p l)
        = ((s.presenting p l).takeCapture p (l.latch s.timebase) (s.takenOf m p l) w r b, []) := by
      rw [State.takeClassed_of_read (s := s.presenting p l) (t := s.takenOf m p l) hcls href hd, hread]
    rw [State.takeCapture_eq] at htake
    simp only [State.presenting_engines, State.presenting_pins, State.withPort_presenting] at htake
    exact exec_classed_silent hc ha hm hbe hn htake

/-! ## Watched writes (R131, R133) -/

theorem Ring.validCount_iff (r : Ring) (n : Count) :
    r.validCount n = true ↔ (n - r.cons).toNat ≤ (r.prod - r.cons).toNat ∧ r.watch = none := by
  rw [Ring.validCount, Bool.and_eq_true, decide_eq_true_iff, Option.isNone_iff_eq_none]

theorem badConsumerReport_eq (p q : Port) (acc : Access) (n : Count) :
    badConsumerReport p q acc n
      = { kind := .badConsumer, port := some p, detail := 0, window := 31, address := acc.addr,
          value := BitVec.ofNat 32 n.toNat, dest := Both.only q } := by
  have hvalue : n.setWidth 32 = BitVec.ofNat 32 n.toNat := BitVec.eq_of_toNat_eq (by simp)
  rw [badConsumerReport, hvalue]
  rfl

/-- Settles O31: the count offered is tested as the access is taken. -/
theorem watchedWriteIsTested : Obligations.WatchedWriteIsTested := by
  rintro c p l s m q hc ⟨ha, hm, hbe, -⟩ hd hcls t r n valid h0 h1
  have hcons : (s.presenting p l).takeClassed m p (l.latch s.timebase) t
      = if r.validCount n = true then
          (((s.presenting p l).setRing q { r with watch := some p }).claim p (l.latch s.timebase)
            (some t) (.single (.watched q n)), [])
        else ((s.presenting p l).endFault p (l.latch s.timebase),
          [badConsumerReport p q (l.latch s.timebase) n]) := by
    have hcls' : t.cls = .ring q .consumer := hcls
    simp only [State.takeClassed, hcls', State.takeRing, Lines.latch, hd, State.takeConsumer, h0, h1,
      Bool.and_self, if_true]
    rfl
  constructor
  · intro hv hn
    have hlrep : ∀ q', ((s.rings.set q { r with watch := some p }).get q').lrep
        = (s.rings.get q').lrep := fun q' => by
      by_cases hq : q' = q
      · rw [hq, Both.get_set_self]
      · rw [Both.get_set_ne _ _ hq]
    rw [if_pos ((Ring.validCount_iff r n).mpr hv)] at hcons
    rw [exec_classed hc ha hm hbe hcons]
    refine congrArg Host.Outcome.next ((State.chooseBeside_of_settled ?_).trans ?_)
    · exact State.ChoiceCalm.settled (s := s) ⟨rfl, rfl, rfl, fun q' => hlrep q'⟩ hn id
    · rfl
  · intro hv
    rw [if_neg (mt (Ring.validCount_iff r n).mp hv), State.presenting_endFault, hd] at hcons
    rw [exec_classed_reported hc ha hm hbe hcons, badConsumerReport_eq]
    rfl

end Sys2Proof.Machine
end

section
/-! PROOFS. Settles O21 to O23, O26 and O27: what the arbiter grants, and the word accesses issued. -/

namespace Sys2Proof.Machine

/-! ## Word accesses of consecutive words -/

theorem add_one_add_ofNat (a : WAddr) (k : Nat) :
    a + 1 + BitVec.ofNat 20 k = a + BitVec.ofNat 20 (k + 1) := by
  rw [Nat.add_comm, BitVec.ofNat_add, BitVec.add_assoc]
  rfl

theorem add_ofNat_add_ofNat (a : WAddr) (i k : Nat) :
    a + BitVec.ofNat 20 i + BitVec.ofNat 20 k = a + BitVec.ofNat 20 (i + k) := by
  rw [BitVec.ofNat_add, BitVec.add_assoc]

theorem add_ofNat_zero (a : WAddr) : a + BitVec.ofNat 20 0 = a := BitVec.add_zero a

theorem readsFrom_eq (a : WAddr) (n : Nat) :
    readsFrom a n = (List.range n).map fun k => readAt (a + BitVec.ofNat 20 k) := by
  induction n generalizing a with
  | zero => rfl
  | succ n ih =>
    rw [readsFrom, ih, List.range_succ_eq_map, List.map_cons, List.map_map, add_ofNat_zero]
    congr 1
    exact List.map_congr_left fun k _ => by rw [add_one_add_ofNat]; rfl

theorem writesFrom_eq (a : WAddr) (ds : List Word) :
    writesFrom a ds
      = (List.range ds.length).map fun k => writeAt (a + BitVec.ofNat 20 k) (ds.getD k 0) := by
  induction ds generalizing a with
  | nil => rfl
  | cons d ds ih =>
    rw [writesFrom, ih, List.length_cons, List.range_succ_eq_map, List.map_cons, List.map_map,
      add_ofNat_zero]
    congr 1
    exact List.map_congr_left fun k _ => by rw [add_one_add_ofNat]; rfl

/-! ## The claimant that GRANT finds -/

theorem State.rotate_of_picks {s : State} {r : Rotor} (h : s.RotationPicks r) :
    s.rotate = some r := by
  obtain ⟨hw, rfl | ⟨h0, rfl⟩ | ⟨h0, h1, rfl⟩⟩ := h
  · simp only [State.rotate, hw, if_true]
  · simp only [State.rotate, hw, h0, Bool.false_eq_true, if_false, if_true]
  · simp only [State.rotate, hw, h0, h1, Bool.false_eq_true, if_false, if_true]

theorem State.rotate_of_no_waits {s : State} (h : ∀ r, s.waits r = false) : s.rotate = none := by
  simp only [State.rotate, h, Bool.false_eq_true, if_false]

theorem State.PicksNext.arbitrate {s : State} {r : Rotor} (h : s.PicksNext r) :
    s.arbitrate = s.startRotor r :=
  State.arbitrate_of_rotate h.1 h.2.1 (State.rotate_of_picks h.2.2)

theorem State.PicksNext.waits {s : State} {r : Rotor} (h : s.PicksNext r) : s.waits r = true :=
  h.2.2.1

theorem State.PicksNext.arbitrate_port {s : State} {p : Port} (h : s.PicksNext (rotorOf p)) :
    s.arbitrate = { s with pointer := (rotorOf p).next }.startPort p := by
  rw [h.arbitrate]
  cases p <;> rfl

theorem State.PicksNext.arbitrate_notice {s : State} {c : NoticeClaim} (h : s.PicksNext .notice)
    (hc : s.noticeClaim = some c) :
    s.arbitrate = { s with pointer := .a, noticeClaim := none }.startNotice c := by
  rw [h.arbitrate]
  simp only [State.startRotor, hc]
  rfl

theorem exec_grant (s : State) : exec .grant s = .next s.arbitrate.chooseNotice := rfl

theorem exec_grant_of_settled {s t : State} (h : s.arbitrate = t) (ht : t.NoticeSettled) :
    exec .grant s = .next t := by
  rw [exec_grant, h, State.chooseNotice_of_settled ht]

/-- The Notice Unit stays settled as a claim of another block is granted. -/
theorem State.NoticeSettled.granted {s t : State} (h : s.NoticeSettled) (hg : s.granted = none)
    (ht : s.ChoiceCalm t) : t.NoticeSettled :=
  ht.settled h fun hb => by simp only [State.burstCarried, hg, Bool.false_eq_true] at hb

/-! ## What a grant leaves alone -/

theorem State.startPort_pointer (s : State) (p : Port) : (s.startPort p).pointer = s.pointer := by
  unfold State.startPort
  split
  next acc t job _ _ =>
    cases job with
    | commit =>
      dsimp only
      unfold State.startCommit
      dsimp only
      split <;> rfl
    | _ => rfl
  · rfl

theorem State.startNotice_pointer (s : State) (c : NoticeClaim) :
    (s.startNotice c).pointer = s.pointer ∧ (s.startNotice c).engines = s.engines := by
  cases c with
  | lossReport q =>
    unfold State.startNotice
    dsimp only
    split <;> exact ⟨rfl, rfl⟩
  | head q =>
    unfold State.startNotice
    dsimp only
    split
    · split <;> exact ⟨rfl, rfl⟩
    · exact ⟨rfl, rfl⟩

/-- A grant to the loader changes the granted operation alone. -/
theorem State.startLoader_frame (s : State) (c : LoaderClaim) :
    s.startLoader c = { s with granted := (s.startLoader c).granted } := by
  unfold State.startLoader
  repeat' split
  all_goals rfl

theorem rotorOf_injective {p q : Port} (h : rotorOf p = rotorOf q) : p = q := by
  cases p <;> cases q <;> first | rfl | cases h

theorem exists_port_of_rotor {r : Rotor} (h : r ≠ .notice) : ∃ p, r = rotorOf p := by
  cases r with
  | a => exact ⟨.a, rfl⟩
  | b => exact ⟨.b, rfl⟩
  | notice => exact absurd rfl h

theorem State.waits_rotorOf (s : State) (p : Port) :
    s.waits (rotorOf p) = (s.engines.get p).waiting := by
  cases p <;> rfl

/-- What a grant by rotation leaves: POINTER past the claimant, and the engines but for the claimant's,
which waits no more. -/
theorem State.PicksNext.rotated {s : State} {r : Rotor} (h : s.PicksNext r) :
    s.arbitrate.pointer = r.next
      ∧ (∀ p, s.arbitrate.engines.get p ≠ s.engines.get p → r = rotorOf p)
      ∧ ∀ p, r = rotorOf p → (s.arbitrate.engines.get p).waiting = false := by
  by_cases hr : r = .notice
  · subst hr
    obtain ⟨c, hc⟩ := Option.isSome_iff_exists.mp h.waits
    obtain ⟨hp, he⟩ := State.startNotice_pointer { s with pointer := .a, noticeClaim := none } c
    rw [h.arbitrate_notice hc]
    refine ⟨hp, fun p hne => absurd (by rw [he]) hne, fun p hp => ?_⟩
    cases p <;> cases hp
  · obtain ⟨q, rfl⟩ := exists_port_of_rotor hr
    have hw := h.waits
    rw [State.waits_rotorOf] at hw
    obtain ⟨acc, t, job, hest⟩ := Engine.waiting_iff.mp hw
    have he := State.startPort_engines (s := { s with pointer := (rotorOf q).next }) hest
    rw [h.arbitrate_port]
    refine ⟨State.startPort_pointer _ q, fun p hne => ?_, fun p hp => ?_⟩
    · by_cases hpq : p = q
      · rw [hpq]
      · refine absurd ?_ hne
        rw [he, State.setEState_engines, Both.get_set_ne _ _ hpq]
    · rw [← rotorOf_injective hp, he, State.setEState_engines, Both.get_set_self]
      rfl

/-- Settles O21: nothing to grant, the loader's claim, or the claim that the rotation picks. -/
theorem grantFollowsTheRotation : Obligations.GrantFollowsTheRotation := by
  refine fun s => ⟨fun h hn => ?_, fun claim hg hc => ?_, fun r h => ?_⟩
  · refine exec_grant_of_settled ?_ hn
    obtain hg | ⟨hc, hw⟩ := h
    · obtain ⟨g, hg⟩ := Option.isSome_iff_exists.mp hg
      exact State.arbitrate_of_granted hg
    · exact State.arbitrate_of_no_claim hc (State.rotate_of_no_waits hw)
  · refine ⟨_, exec_grant s, ?_⟩
    rw [State.arbitrate_of_loader hg hc, State.chooseNotice_frame, State.startLoader_frame]
    exact ⟨rfl, rfl, rfl, rfl, rfl⟩
  · obtain ⟨hp, hother, hself⟩ := h.rotated
    refine ⟨_, exec_grant s, ?_⟩
    rw [State.chooseNotice_engines, State.chooseNotice_mem, State.chooseNotice_frame]
    refine ⟨?_, hother, hself, by rw [s.arbitrate_work]⟩
    change s.arbitrate.pointer = _
    rw [hp]
    cases r <;> rfl

/-! ## The operations of a port engine (R97) -/

section
variable {s : State} {p : Port} {acc : Access} {t : Taken}

/-- The state in which the waiting claim of a port has been granted and its operation issued. -/
def State.portGranted (s : State) (p : Port) (acc : Access) (t : Option Taken) (job : Job) (op : Op)
    (todo : List WordAccess) : State :=
  { s with
    pointer := (rotorOf p).next
    engines := s.engines.set p { s.engines.get p with estate := .inMemory acc t job .granted }
    granted := some (s.issued op todo 0 []) }

theorem exec_grant_port {t : Option Taken} {job : Job} {op : Op} {todo : List WordAccess}
    (h : s.PicksNext (rotorOf p)) (hn : s.NoticeSettled)
    (hstart : { s with pointer := (rotorOf p).next }.startPort p
      = s.portGranted p acc t job op todo) :
    exec .grant s = .next (s.portGranted p acc t job op todo) :=
  exec_grant_of_settled (h.arbitrate_port.trans hstart)
    (hn.granted h.1 ⟨rfl, rfl, rfl, fun _ => rfl⟩)

theorem State.startPort_single {t : Option Taken} {purpose : Purpose}
    (he : (s.engines.get p).estate = .inMemory acc t (.single purpose) .waiting) :
    { s with pointer := (rotorOf p).next }.startPort p
      = s.portGranted p acc t (.single purpose) (.single p) [singleAccess acc t purpose] := by
  simp only [State.startPort, he]
  rfl

theorem State.startPort_stampRead {w r o : Nat} {b : WAddr}
    (he : (s.engines.get p).estate = .inMemory acc (some t) .stampRead .waiting)
    (hrec : t.recordOf = (w, r, o, b)) :
    { s with pointer := (rotorOf p).next }.startPort p
      = s.portGranted p acc (some t) .stampRead (.stampRead p) [readAt b] := by
  simp only [State.startPort, he, recordOf, hrec]
  rfl

theorem State.startPort_capture {w r o : Nat} {b : WAddr}
    (he : (s.engines.get p).estate = .inMemory acc (some t) .capture .waiting)
    (hrec : t.recordOf = (w, r, o, b)) :
    { s with pointer := (rotorOf p).next }.startPort p
      = s.portGranted p acc (some t) .capture (.capture p)
          ((List.range (s.spec w).reclen).map fun k => readAt (b + BitVec.ofNat 20 k)) := by
  have hspec : { s with pointer := (rotorOf p).next }.spec w = s.spec w := rfl
  simp only [State.startPort, he, recordOf, hrec, hspec, readsFrom_eq]
  rfl

/-- A commit burst starts with its reading phase, or with its writes if there is nothing to read. -/
theorem State.startCommit_eq {v : State} {tk : Option Taken} {ses : Session} {spec : RecordSpec}
    (hjob : v.jobSession p tk = ses) (hspec : v.spec ses.window = spec) :
    v.startCommit p tk
      = v.issue (if commitReads spec ses = [] then .commit p true else .commit p false)
          (if commitReads spec ses = [] then commitWrites spec ses p [] else commitReads spec ses)
          0 [] := by
  unfold State.startCommit
  simp only [hjob, hspec]
  split
  next hnil => rw [if_pos hnil, if_pos hnil]
  next a as hcons =>
    have hne : commitReads spec ses ≠ [] := by
      rw [hcons]
      exact List.cons_ne_nil a as
    rw [if_neg hne, if_neg hne, hcons]

theorem State.startPort_commit {w r o : Nat} {b : WAddr} {ses : Session}
    (he : (s.engines.get p).estate = .inMemory acc (some t) .commit .waiting)
    (hrec : t.recordOf = (w, r, o, b)) (hses : (s.engines.get p).sessionOf w r = some ses) :
    { s with pointer := (rotorOf p).next }.startPort p
      = s.portGranted p acc (some t) .commit
          (if commitReads (s.spec w) ses = [] then .commit p true else .commit p false)
          (if commitReads (s.spec w) ses = [] then commitWrites (s.spec w) ses p []
            else commitReads (s.spec w) ses) := by
  obtain ⟨hw, -, -⟩ := Engine.sessionOf_key hses
  have hjob : ({ s with pointer := (rotorOf p).next }.setEState p
      (.inMemory acc (some t) .commit .granted)).jobSession p (some t) = ses := by
    have hfind : (({ s with pointer := (rotorOf p).next }.setEState p
        (.inMemory acc (some t) .commit .granted)).engines.get p).sessionOf w r = some ses := by
      rw [State.setEState_engines, Both.get_set_self]
      exact hses
    rw [State.jobSession, recordOf, hrec, hfind]
    rfl
  have hspec : s.spec ses.window = s.spec w := by rw [hw]
  simp only [State.startPort, he]
  exact State.startCommit_eq hjob hspec

end

/-- Settles O22: each kind of operation by the job of its claim. -/
theorem grantStartsAPortOperation : Obligations.GrantStartsAPortOperation := by
  constructor
  · intro s p acc t job hpick hest hn go
    refine ⟨fun purpose hjob hp => ?_, fun st hjob => ?_, fun w r o b hjob hrec => ?_,
      fun w r o b hjob hrec => ?_⟩ <;> subst hjob
    · have hsingle : singleAccess acc (some t) purpose
          = { addr := acc.addr, dir := acc.dir, be := t.be, data := t.data } := by
        cases purpose with
        | ownRead st => exact absurd rfl (hp st)
        | _ => rfl
      rw [← hsingle]
      exact exec_grant_port hpick hn (State.startPort_single hest)
    · exact exec_grant_port hpick hn (State.startPort_single hest)
    · exact exec_grant_port hpick hn (State.startPort_stampRead hest (Taken.recordOf_eq hrec))
    · exact exec_grant_port hpick hn (State.startPort_capture hest (Taken.recordOf_eq hrec))
  · intro s p acc purpose hpick hest hp hn
    have hsingle : singleAccess acc none purpose
        = { addr := acc.addr, dir := acc.dir, be := acc.be, data := acc.data } := by
      cases purpose with
      | ownRead st => exact absurd rfl (hp st)
      | _ => rfl
    rw [← hsingle]
    exact exec_grant_port hpick hn (State.startPort_single hest)

/-- Settles O23: the reading phase, or the writes if there is nothing to read. -/
theorem grantStartsACommitBurst : Obligations.GrantStartsACommitBurst := by
  intro s p acc t w r o b ses hpick hest hrec hses hn reads
  rw [exec_grant_port hpick hn (State.startPort_commit hest (Taken.recordOf_eq hrec) hses)]
  unfold State.portGranted
  by_cases h : commitReads (s.spec w) ses = []
  · simp only [reads, if_pos h]
  · simp only [reads, if_neg h]

/-! ## The operations of the loader (R97) -/

theorem State.startLoader_imageRead {s : State} {ld : Load} (hl : s.part = .loading ld) :
    s.startLoader .imageRead
      = s.issue .imageRead
          ((List.range ld.reqN).map fun k => readAt (s.straps.imageBase + BitVec.ofNat 20 k)) 0 [] := by
  simp only [State.startLoader, hl, ← readsFrom_eq]

theorem State.startLoader_ringHeader {s : State} {ld : Load} {cand : RecordMap} {q : Port}
    {pl : RingPlace} (hl : s.part = .loading ld) (hph : ld.phase = .installing cand)
    (hpl : cand.rings.get q = some pl) :
    s.startLoader (.ringHeader q)
      = s.issue (.ringHeader q) [writeAt pl.base 0, writeAt (pl.base + 1) 0] 0 [] := by
  obtain ⟨from?, phase, port, n⟩ := ld
  subst hph
  simp only [State.startLoader, hl, hpl]

/-- Settles O27: each claim of the loader by its kind. -/
theorem grantStartsALoaderOperation : Obligations.GrantStartsALoaderOperation := by
  intro s hg hn go
  have hsettled : ∀ op todo, (go op todo).NoticeSettled :=
    fun op todo => hn.granted hg ⟨rfl, rfl, rfl, fun _ => rfl⟩
  refine ⟨fun word hc => ?_, fun ld hc hl => ?_, fun q ld cand pl hc hl hph hpl => ?_⟩
  · exact exec_grant_of_settled (State.arbitrate_of_loader hg hc) (hsettled _ _)
  · exact exec_grant_of_settled ((State.arbitrate_of_loader hg hc).trans
      (State.startLoader_imageRead (s := { s with loaderClaim := none }) hl)) (hsettled _ _)
  · exact exec_grant_of_settled ((State.arbitrate_of_loader hg hc).trans
      (State.startLoader_ringHeader (s := { s with loaderClaim := none }) hl hph hpl)) (hsettled _ _)

/-! ## Notice bursts (R124, R126, R127) -/

section
variable {s : State} {q : Port} {pl : RingPlace}

theorem exec_grant_notice {c : NoticeClaim} {t : State} (h : s.PicksNext .notice)
    (hc : s.noticeClaim = some c)
    (ht : { s with pointer := .a, noticeClaim := none }.startNotice c = t)
    (hb : t.burstCarried = true) : exec .grant s = .next t :=
  exec_grant_of_settled ((h.arbitrate_notice hc).trans ht) (.inr (.inl hb))

/-- The producer word of a burst, with its saturated high half (R124, R127). -/
theorem writeAt_producer (pl : RingPlace) (r : Ring) (prod : Count) :
    writeAt pl.base (ofHalves r.lostOut prod)
      = { addr := pl.base, dir := .write, be := 15,
          data := BitVec.ofNat 16 (min 65535 (r.lost.toNat + r.plost.toNat)) ++ prod } := by
  rw [Ring.lostOut, satAdd_eq_min]
  rfl

theorem entryWrites_eq (pl : RingPlace) (r : Ring) (n : Notice) :
    entryWrites pl r n
      = ((List.range 4).map fun k =>
          ({ addr := pl.base + BitVec.ofNat 20 (2 + 4 * (r.prod.toNat % pl.cap.entries) + k),
             dir := .write, be := 15, data := n.words.getD k 0 } : WordAccess))
        ++ [{ addr := pl.base, dir := .write, be := 15,
              data := BitVec.ofNat 16 (min 65535 (r.lost.toNat + r.plost.toNat)) ++ (r.prod + 1) }] := by
  rw [entryWrites, writeAt_producer, writesFrom_eq, slotAddress]
  congr 1
  exact List.map_congr_left fun k _ => by rw [add_ofNat_add_ofNat]; rfl

end

/-! ## The words of a notice (R124) -/

theorem toNat_append_eq {m n : Nat} (x : BitVec m) (y : BitVec n) :
    (x ++ y).toNat = x.toNat * 2 ^ n + y.toNat := by
  rw [BitVec.toNat_append, ← Nat.shiftLeft_add_eq_or_of_lt y.isLt, Nat.shiftLeft_eq]

theorem portField_toNat (p : Option Port) :
    (portField p).toNat = (match p with | some .a => 0 | some .b => 1 | none => 2) := by
  cases p with
  | none => rfl
  | some q => cases q <;> rfl

theorem NoticeKind.code_lt (k : NoticeKind) : k.code < 16 := by cases k <;> decide

/-- The first word of a notice, field by field. -/
theorem notice_head_word (n : Notice) {port : Nat} (hport : (portField n.port).toNat = port) :
    (0 : BitVec 11) ++ n.window ++ n.detail ++ n.severity ++ portField n.port
        ++ BitVec.ofNat 4 n.kind.code
      = BitVec.ofNat 32 (n.kind.code
          + 16 * port + 64 * n.severity.toNat + 256 * n.detail.toNat + 65536 * n.window.toNat) := by
  have hportlt := (portField n.port).isLt
  have hcode : (BitVec.ofNat 4 n.kind.code).toNat = n.kind.code := by
    rw [BitVec.toNat_ofNat, Nat.mod_eq_of_lt n.kind.code_lt]
  have hcodelt := n.kind.code_lt
  have hsev := n.severity.isLt
  have hdetail := n.detail.isLt
  have hwindow := n.window.isLt
  refine BitVec.eq_of_toNat_eq ?_
  rw [BitVec.toNat_ofNat, ← hport]
  simp only [toNat_append_eq, hcode]
  have hzero : (0 : BitVec 11).toNat = 0 := rfl
  omega

theorem notice_address_word (a : WAddr) : (0 : BitVec 12) ++ a = BitVec.ofNat 32 a.toNat := by
  refine BitVec.eq_of_toNat_eq ?_
  rw [toNat_append_eq, BitVec.toNat_ofNat]
  have := a.isLt
  have hzero : (0 : BitVec 12).toNat = 0 := rfl
  omega

theorem NoticeKind.code_eq (k : NoticeKind) :
    k.code = (match k with
      | .loadDone => 1 | .loadFailed => 2 | .refused => 3 | .abandoned => 4 | .stale => 5
      | .checkMismatch => 6 | .torn => 7 | .suspect => 8 | .memTimeout => 9 | .holdTimeout => 10
      | .badConsumer => 11) := by
  cases k <;> rfl

/-- Settles O26: the form of each notice burst by the ring's items, and the fields of a notice. -/
theorem grantStartsANoticeBurst : Obligations.GrantStartsANoticeBurst := by
  constructor
  · intro s q pl hpick hpl r word plus
    have hplus : satAdd r.plost 1 = plus := satAdd_one r.plost
    refine ⟨fun e es hc hq => ⟨fun hroom => ?_, fun hfull => ?_⟩, fun hc => ?_⟩
    · refine exec_grant_notice hpick hc ((State.startNotice_entry
        (s := { s with pointer := .a, noticeClaim := none }) hpl hq (decide_eq_true hroom)).trans ?_)
        rfl
      rw [entryWrites_eq]
      rfl
    · have hno : ¬ r.hasRoom pl.cap.entries = true := by
        rw [Ring.hasRoom, decide_eq_true_iff]
        exact Nat.not_lt.mpr hfull
      refine exec_grant_notice hpick hc ((State.startNotice_fullRing
        (s := { s with pointer := .a, noticeClaim := none }) hpl hq hno).trans ?_) rfl
      have hring : r.plusLost = { r with plost := plus } := by rw [Ring.plusLost, hplus]
      change ({ s with pointer := .a, noticeClaim := none }.setRing q r.plusLost).issue
        (.fullRing q r.plusLost.plost) (producerWrite pl r.plusLost) 0 [] = _
      rw [hring, producerWrite, writeAt_producer]
      rfl
    · refine exec_grant_notice hpick hc ((State.startNotice_lossReport
        (s := { s with pointer := .a, noticeClaim := none }) hpl).trans ?_) rfl
      rw [producerWrite, writeAt_producer]
      rfl
  · intro n code port
    have hcode : n.kind.code = code := n.kind.code_eq
    rw [Notice.words, notice_head_word n (port := port) (portField_toNat n.port), notice_address_word,
      hcode]

end Sys2Proof.Machine
end

section
/-! PROOFS. Settles O19, O28 to O30 and O32: limits of the tables, the word accesses of an operation, what
the memory bus does, and the ends of single operations. -/

namespace Sys2Proof.Machine

/-! ## Limits (R53, R89) -/

theorem State.limitReached_iff (s : State) (limit : Nat) (since : Time) :
    s.limitReached limit since = true ↔ limit ≠ 0 ∧ limit ≤ age s.timebase since := by
  rw [State.limitReached, Bool.and_eq_true, decide_eq_true_iff, decide_eq_true_iff]

theorem State.limitReached_of_not {s : State} {limit : Nat} {since : Time}
    (h : limit = 0 ∨ age s.timebase since < limit) : s.limitReached limit since = false := by
  rw [← Bool.not_eq_true, State.limitReached_iff]
  rintro ⟨h0, hle⟩
  obtain h | h := h
  · exact h0 h
  · exact Nat.not_lt.mpr hle h

section
variable {s : State} {p : Port} {w r : Nat}

theorem State.sessionExpiry_due {ses : Session} {opened : Time}
    (hses : (s.engines.get p).sessionOf w r = some ses) (ho : ses.opened = some opened)
    (hst : ses.state = .open) (hdue : s.limitReached s.sessionLimit opened = true) :
    s.sessionExpiry p w r = some (s.freeSession p w r, abandonedReport p ses .expiry) := by
  simp only [State.sessionExpiry, hses, hst, ho, hdue, if_true]

theorem State.sessionExpiry_not_due {ses : Session} {opened : Time}
    (hses : (s.engines.get p).sessionOf w r = some ses) (ho : ses.opened = some opened)
    (h : ses.state ≠ .open ∨ s.limitReached s.sessionLimit opened = false) :
    s.sessionExpiry p w r = none := by
  unfold State.sessionExpiry
  simp only [hses, ho]
  split
  next hst hopened =>
    cases hopened
    obtain h | h := h
    · exact absurd hst h
    · rw [h]
      rfl
  · rfl

theorem exec_sessionLimitExpires :
    exec (.sessionLimitExpires p w r) s = .next (s.expireNow (s.sessionExpiry p w r)) := rfl

theorem exec_captureLimitExpires {cap : Capture} {lv : Live}
    (hcap : (s.engines.get p).captureOf w r = some cap) (hlive : cap.live = some lv) :
    exec (.captureLimitExpires p w r) s
      = if s.limitReached s.captureLimit lv.filled = true then .next (s.freeCapture p w r)
        else .next s := by
  simp only [exec, execCaptureLimitExpires, hcap, hlive]

end

/-- Settles O19: each limit by whether it is reached. -/
theorem sessionAndCaptureLimits : Obligations.SessionAndCaptureLimits := by
  constructor
  · intro p w r s ses opened hses ho
    refine ⟨fun hst h0 hle => ?_, fun h => ?_⟩
    · rw [exec_sessionLimitExpires, State.sessionExpiry_due hses ho hst
        ((s.limitReached_iff _ _).mpr ⟨h0, hle⟩), State.freeSession_eq]
      rfl
    · have hnone : s.sessionExpiry p w r = none :=
        State.sessionExpiry_not_due hses ho (h.imp_right State.limitReached_of_not)
      rw [exec_sessionLimitExpires, hnone]
      rfl
  · intro p w r s cap lv hcap hlive
    rw [exec_captureLimitExpires hcap hlive]
    refine ⟨fun h0 hle => ?_, fun h => ?_⟩
    · rw [if_pos ((s.limitReached_iff _ _).mpr ⟨h0, hle⟩), State.freeCapture_eq]
    · rw [State.limitReached_of_not h]
      rfl

/-! ## Word accesses one after another (R64, R101) -/

theorem gotAfter_eq (g : Granted) (w : WordAccess) (d : Word) :
    gotAfter g w d = g.got ++ (if w.dir = .read then [d] else []) := by
  unfold gotAfter
  cases w.dir with
  | read => rfl
  | write => simp

section
variable {s : State} {g : Granted} {w : WordAccess} {rest : List WordAccess}

theorem exec_wordAccessCompletes {w' : WordAccess} (ans : Answer) (h : s.OnBus g w (w' :: rest))
    (hop : ∀ p, g.op ≠ .commit p false) :
    exec (.wordAccessCompletes ans) s
      = .next ((s.answer w ans).issue g.op (w' :: rest) (g.done + 1)
          (gotAfter g w (s.answerData w ans))) := by
  simp only [exec, execWordAccessCompletes, h.presented, h.2.2, List.tail_cons]

theorem exec_wordAccessCompletes_commit {p : Port} {acc : Access} {t : Taken} {ses : Session}
    (ans : Answer) (h : s.OnBus g w rest) (hop : g.op = .commit p false)
    (hf : s.CarriesFor p acc t .commit ses)
    (hst : (s.spec ses.window).stamp = false ∨ g.done ≠ 0) :
    exec (.wordAccessCompletes ans) s
      = .next ((s.answer w ans).nextCommitAccess p ses rest (g.done + 1)
          (gotAfter g w (s.answerData w ans))) := by
  have hat : s.atCommitStamp ses g = false := by
    rw [State.atCommitStamp, Bool.and_eq_false_iff, decide_eq_false_iff_not]
    exact hst
  simp only [exec, execWordAccessCompletes, h.presented, h.2.2, List.tail_cons, hop,
    State.sessionFlight_iff.mpr hf, hat, Bool.false_eq_true, if_false]

end

theorem State.answer_ackHigh (s : State) (w : WordAccess) (ans : Answer) :
    (s.answer w ans).ackHigh = ans.held := by rw [State.answer_frame]

/-- What an operation issued after an answer carries. -/
theorem State.answer_issue (s : State) (w : WordAccess) (ans : Answer) (op : Op)
    (todo : List WordAccess) (done : Nat) (got : List Word) :
    (s.answer w ans).issue op todo done got
      = { s.answer w ans with
          granted := some
            { op := op, todo := todo, done := done, got := got, timer := s.timebase,
              limit := s.memoryLimit, presented := !ans.held } } := by
  have ht : (s.answer w ans).timebase = s.timebase := by rw [State.answer_frame]
  have hl : (s.answer w ans).memoryLimit = s.memoryLimit := by
    rw [State.answer_frame]
    rfl
  have hissued : (s.answer w ans).issued op todo done got
      = { op := op, todo := todo, done := done, got := got, timer := s.timebase,
          limit := s.memoryLimit, presented := !ans.held } := by
    rw [State.issued, ht, hl, State.answer_ackHigh]
  exact congrArg (fun g => { s.answer w ans with granted := some g }) hissued

theorem State.answer_spec (s : State) (w : WordAccess) (ans : Answer) (x : Nat) :
    (s.answer w ans).spec x = s.spec x := by
  rw [State.answer_frame]
  rfl

/-- Settles O28: the next word access of the operation, or of a commit burst its next phase. -/
theorem wordAccessesFollowOneAnother : Obligations.WordAccessesFollowOneAnother := by
  constructor
  · intro ans s g w w' rest h hop
    rw [exec_wordAccessCompletes ans h hop, State.answer_issue, gotAfter_eq]
  · intro ans s g w rest p acc t a r o b ses h hop hc hrec hses hst hd got
    have hkey := Taken.recordOf_eq hrec
    obtain ⟨hw, -, -⟩ := Engine.sessionOf_key hses
    have hf : s.CarriesFor p acc t .commit ses := ⟨hc, by rw [hkey]; exact hses⟩
    have hgot : gotAfter g w (s.answerData w ans) = got := by
      rw [gotAfter_eq, if_pos hd]
    rw [exec_wordAccessCompletes_commit ans h hop hf (by rw [hw]; exact hst), hgot]
    cases rest with
    | nil =>
      rw [State.nextCommitAccess, State.answer_issue, State.answer_spec, hw]
      rfl
    | cons x xs =>
      rw [State.nextCommitAccess, State.answer_issue]
      rfl

/-! ## The memory bus (R97, R103 to R107) -/

theorem lane_readWord (m : Memory) (a : WAddr) {k : Nat} (hk : k < 4) :
    lane (m.readWord a) k = m.readByte (4 * a.toNat + k) :=
  lane_ofLanes (fun j => m.readByte (byteAddress a j)) hk

theorem lane_zero (k : Nat) : lane 0 k = 0 := BitVec.extractLsb'_zero

theorem lane_pickLanes (be : Lanes) (w : Word) {k : Nat} (hk : k < 4) :
    lane (pickLanes be w) k = if enabled be k = true then lane w k else 0 := by
  rw [pickLanes, lane_mergeLanes be w 0 hk, lane_zero]

/-- A write that lands on other lanes than this one leaves its byte. -/
theorem Memory.readByte_writeWord_disabled {m : Memory} (hwf : m.wf = true) {a : WAddr} {be : Lanes}
    {data : Word} {k : Nat} (hk : k < 4) (he : enabled be k = false) :
    (m.writeWord a be data).readByte (4 * a.toNat + k) = m.readByte (4 * a.toNat + k) := by
  have hmod : (4 * a.toNat + k) % 4 = k := by omega
  rw [Memory.readByte_writeWord hwf, hmod, he, if_neg fun h => Bool.false_ne_true h.2]

/-- The lanes on which the write of a watched count lands: its two count lanes together (R105). -/
theorem enabled_countLanes (whole free : Lanes) {k : Nat} (hk : k < 2) :
    enabled ((whole &&& 3) ||| (free &&& 12)) k = enabled whole k := by
  rw [enabled_or, enabled_and, enabled_and]
  interval_cases k
  · rw [show enabled 3 0 = true from rfl, show enabled 12 0 = false from rfl]
    simp
  · rw [show enabled 3 1 = true from rfl, show enabled 12 1 = false from rfl]
    simp

theorem State.landOn_read {s : State} {w : WordAccess} (lanes : Lanes) (h : w.dir = .read) :
    s.landOn w lanes = s := by
  simp only [State.landOn, h]

theorem State.landOn_write {s : State} {w : WordAccess} (lanes : Lanes) (h : w.dir = .write) :
    (s.landOn w lanes).mem = s.mem.writeWord w.addr (w.be &&& lanes) w.data := by
  simp only [State.landOn, h]

/-- The count of a watched write that expires is old or written (R105, R132). -/
theorem State.landExpired_count {s : State} (w : WordAccess) (hwf : s.mem.wf = true)
    (h : s.openWord = .count) :
    (∀ k < 2, (s.landExpired w).mem.readByte (4 * w.addr.toNat + k)
        = s.mem.readByte (4 * w.addr.toNat + k))
      ∨ ∀ k < 2, w.dir = .write ∧ (enabled w.be k = true →
          (s.landExpired w).mem.readByte (4 * w.addr.toNat + k) = lane w.data k) := by
  have hlanes : s.expiredLanes
      = (s.wholeLanes &&& 3) ||| (Config.freeLanes s.freeCount &&& 12) := by
    simp only [State.expiredLanes, h]
  cases hd : w.dir with
  | read =>
    rw [State.landExpired, State.landOn_read _ hd]
    exact .inl fun _ _ => rfl
  | write =>
    rw [State.landExpired, State.landOn_write _ hd, hlanes]
    cases hfree : Config.freeWhole s.freeCount with
    | true =>
      refine .inr fun k hk => ⟨rfl, fun he => ?_⟩
      refine Memory.readByte_writeWord_enabled hwf (by omega) ?_
      rw [enabled_and, he, enabled_countLanes _ _ hk, State.wholeLanes, hfree]
      interval_cases k <;> rfl
    | false =>
      refine .inl fun k hk => Memory.readByte_writeWord_disabled hwf (by omega) ?_
      rw [enabled_and, enabled_countLanes _ _ hk, State.wholeLanes, hfree]
      simp [enabled]

/-- Settles O29: an answer and an expiry land as the bus allows, whole where the burst asks for it. -/
theorem memoryBusChangesEnabledLanesAlone : Obligations.MemoryBusChangesEnabledLanesAlone := by
  constructor
  · intro s w ans hwf
    refine ⟨fun x => (s.answer_landed w ans).readByte hwf x, fun hd hl k hk he => ?_,
      fun hl k hk => ?_, s.answer_frame w ans⟩
    · rw [State.answer_write s w ans hd hl]
      exact Memory.readByte_writeWord_enabled hwf hk he
    · simp only [State.answerData, hl]
      rw [lane_pickLanes _ _ hk, lane_readWord _ _ hk]
  · intro s w hwf
    have hmem : (s.expired w).mem = (s.landExpired w).mem := rfl
    rw [hmem]
    refine ⟨fun x => (s.landOn_landed w _).readByte hwf x, fun g hg hwhole => ?_,
      fun g p acc t q n hg ho hc => ?_, fun hd => ?_, ?_⟩
    · have hopen : s.openWord = .whole := by
        obtain ⟨p, wr, ho⟩ | ⟨ht, q, n, ho⟩ := hwhole
        · exact State.openWord_commit hg ho
        · exact State.openWord_producer hg ht ho
      obtain heq | heq := State.landExpired_whole w hopen
      · exact .inl fun x => congrArg (fun m : Memory => m.readByte x) heq
      · refine .inr fun k hk he => ?_
        rw [heq]
        exact Memory.readByte_writeWord_enabled hwf hk he
    · exact State.landExpired_count w hwf (State.openWord_watched hg ho hc)
    · rw [State.expired, State.landExpired, State.landOn_read _ hd]
    · rw [State.expired, State.landExpired_frame]

/-! ## The ends of single operations (R18, R50, R132) -/

theorem State.answered_pins (s : State) (w : WordAccess) (ans : Answer) :
    (s.answered w ans).pins = s.pins := by
  rw [State.answered, State.answer_frame]

/-- An access ends READY as its operation completes. -/
theorem State.answered_endReady (s : State) (w : WordAccess) (ans : Answer) (p : Port)
    (acc : Access) (word : Word) :
    (s.answered w ans).endReady p acc word
      = (s.answered w ans).ended p (s.engines.get p).sessions (s.engines.get p).captures
          (.ready (dataOn acc.dir word)) := by
  rw [State.endReady_eq, State.ended, State.answered_engines]

section
variable {s : State} {g : Granted} {w : WordAccess} {p : Port} {acc : Access} {t : Option Taken}

theorem exec_single_ordinary (ans : Answer) (h : s.LastOnBus g w) (hop : g.op = .single p)
    (hc : s.Carries p acc t (.single .ordinary)) :
    exec (.singleOperationCompletes ans) s
      = .next ((s.answered w ans).endReady p acc (portWord acc t (s.answerData w ans))) := by
  simp only [exec, execSingleOperationCompletes, h.lastAccess, hop, hc.inFlight]
  rfl

theorem exec_single_ownRead {st : Staged} (ans : Answer) (h : s.LastOnBus g w)
    (hop : g.op = .single p) (hc : s.Carries p acc t (.single (.ownRead st))) :
    exec (.singleOperationCompletes ans) s
      = .next ((s.answered w ans).endReady p acc
          (portWord acc t (mergeLanes st.mask st.bytes (s.answerData w ans)))) := by
  simp only [exec, execSingleOperationCompletes, h.lastAccess, hop, hc.inFlight]
  rfl

theorem exec_consumerCountTaken {q : Port} {n : Count} (ans : Answer) (h : s.LastOnBus g w)
    (hop : g.op = .single p) (hc : s.Carries p acc t (.single (.watched q n))) :
    exec (.consumerCountTaken ans) s
      = .next (((s.answered w ans).takeCount q n).endReady p acc 0) := by
  simp only [exec, execConsumerCountTaken, h.lastAccess, hop, hc.inFlight]
  rfl

end

/-- Settles O30: the word read reaches the port's lanes. -/
theorem singleOperationEndsReady : Obligations.SingleOperationEndsReady := by
  intro ans s g w p acc h hop e
  refine ⟨fun hc => ?_, fun t hc => ?_, fun t st hc =>
    ⟨mergeLanes st.mask st.bytes (s.answerData w ans), fun k hk => lane_mergeLanes _ _ _ hk, ?_⟩⟩
  · rw [exec_single_ordinary ans h hop hc, State.answered_endReady]
    rfl
  · rw [exec_single_ordinary ans h hop hc, State.answered_endReady]
    rfl
  · rw [exec_single_ownRead ans h hop hc, State.answered_endReady]
    rfl

theorem pickLanes_zero (be : Lanes) : pickLanes be 0 = 0 :=
  word_ext fun k hk => by rw [lane_pickLanes _ _ hk, lane_zero, ite_self]

/-- Settles O32: the slots passed are emptied, and the line is what ring and threshold make it. -/
theorem consumerCountIsTaken : Obligations.ConsumerCountIsTaken := by
  intro ans s g w p q acc t n m pl h hop hc hm hpl r
  have hentries : (s.answered w ans).ringEntries q = pl.cap.entries := by
    have hplace : s.ringPlace q = some pl := by simp only [State.ringPlace, hm, hpl]
    have : (s.answered w ans).ringPlace q = some pl := by
      rw [State.ringPlace_of_map (s.answered_lines w ans).map, hplace]
    simp only [State.ringEntries, this]
  have hrings : (s.answered w ans).rings.get q = r := by rw [State.answered_rings]
  refine ⟨clearSlots pl.cap.entries r.shadow r.cons (n - r.cons).toNat,
    ((s.answered w ans).setRing q (r.take pl.cap.entries n)).attention q, ?_,
    clearSlots_length _ _ _ _, fun k hk => clearSlots_getElem? _ _ _ _ hk, ?_⟩
  · have hv : (s.answered w ans).takeCount q n
        = { s.answered w ans with
            rings := s.rings.set q (r.take pl.cap.entries n)
            attn := s.attn.set q (((s.answered w ans).setRing q (r.take pl.cap.entries n)).attention q) } := by
      rw [State.takeCount, hentries, hrings, ← State.answered_rings s w ans,
        ← State.answered_attn s w ans]
      rfl
    rw [exec_consumerCountTaken ans h hop hc, pickLanes_zero, State.endReady_eq, hv,
      ← State.answered_engines s w ans]
    rfl
  · have hmap : ((s.answered w ans).setRing q (r.take pl.cap.entries n)).map = some m :=
      (s.answered_lines w ans).map.trans hm
    rw [State.attention_iff hmap hpl, State.setRing_rings, Both.get_set_self]
    rfl

end Sys2Proof.Machine
end

section
/-! PROOFS. Settles O24: the word accesses of a commit burst and the words they carry (R59, R64 to R67). -/

namespace Sys2Proof.Machine

/-! ## The reading phase -/

/-- The merge reads are those of the words that are not fully staged, in ascending offset (R64). -/
theorem mergeReads_eq (a : WAddr) (l : List Staged) :
    mergeReads a l
      = ((List.range l.length).filter fun k => !(l.getD k default).whole).map fun k =>
          readAt (a + BitVec.ofNat 20 k) := by
  induction l generalizing a with
  | nil => rfl
  | cons st sts ih =>
    have hrest : ((List.range sts.length).map Nat.succ).filter
          (fun k => !((st :: sts).getD k default).whole)
        = ((List.range sts.length).filter fun k => !(sts.getD k default).whole).map Nat.succ := by
      rw [List.filter_map]
      rfl
    rw [mergeReads, ih, List.length_cons, List.range_succ_eq_map, List.filter_cons, hrest]
    cases hw : st.whole with
    | true =>
      simp only [List.getD_cons_zero, hw, Bool.not_true, Bool.false_eq_true, if_false, if_true,
        List.map_map]
      exact List.map_congr_left fun k _ => by rw [add_one_add_ofNat]; rfl
    | false =>
      simp only [List.getD_cons_zero, hw, Bool.not_false, Bool.false_eq_true, if_false, if_true,
        List.map_cons, List.map_map, add_ofNat_zero]
      congr 1
      exact List.map_congr_left fun k _ => by rw [add_one_add_ofNat]; rfl

section
variable {spec : RecordSpec} {ses : Session}

theorem RecordSpec.dataStage_length (hlen : ses.stage.length = spec.reclen)
    (hwords : spec.reclen
      = spec.dataWords + (if spec.stamp then 1 else 0) + (if spec.check then 1 else 0)) :
    (spec.dataStage ses.stage).length = spec.dataWords := by
  rw [RecordSpec.dataStage, List.length_take, List.length_drop, hlen, RecordSpec.firstData]
  omega

theorem RecordSpec.dataStage_getElem? {stage : List Staged} {k : Nat} (hk : k < spec.dataWords) :
    (spec.dataStage stage)[k]? = stage[spec.firstData + k]? := by
  rw [RecordSpec.dataStage, List.getElem?_take, if_pos hk, List.getElem?_drop]

/-- A data word is merged exactly if it is not fully staged. -/
theorem RecordSpec.not_whole_iff {stage : List Staged} {k : Nat} (hk : k < spec.dataWords)
    (hlen : (spec.dataStage stage).length = spec.dataWords) :
    (!((spec.dataStage stage).getD k default).whole) = true
      ↔ ∃ st, stage[spec.firstData + k]? = some st ∧ st.mask ≠ 15 := by
  have hget := List.getElem?_eq_getElem (hlen ▸ hk)
  rw [List.getD_eq_getElem?_getD, hget, Option.getD_some, Bool.not_eq_true', ← Bool.not_eq_true,
    ← RecordSpec.dataStage_getElem? hk, hget, Staged.whole, beq_iff_eq]
  exact ⟨fun h => ⟨_, rfl, h⟩, fun ⟨st, hst, h⟩ => by cases hst; exact h⟩

theorem commitReads_eq (hlen : (spec.dataStage ses.stage).length = spec.dataWords) :
    commitReads spec ses
      = (if spec.stamp then [readAt ses.base] else [])
        ++ (if spec.mode = .close then
              (((List.range spec.dataWords).filter fun k =>
                  !((spec.dataStage ses.stage).getD k default).whole).map fun k =>
                readAt (ses.base + BitVec.ofNat 20 (spec.firstData + k)))
            else []) := by
  unfold commitReads
  congr 1
  cases spec.mode with
  | full => rfl
  | close =>
    dsimp only
    rw [mergeReads_eq, hlen, if_pos rfl]
    exact List.map_congr_left fun k _ => by rw [wordAfter, add_ofNat_add_ofNat]

/-! ## The writing phase -/

theorem formData_length (stage : List Staged) (merged : List Word) :
    (formData stage merged).length = stage.length := by
  induction stage generalizing merged with
  | nil => rfl
  | cons st sts ih =>
    unfold formData
    split
    · rw [List.length_cons, ih, List.length_cons]
    · split <;> rw [List.length_cons, ih, List.length_cons]

theorem writesFrom_head (a : WAddr) (ds : List Word) :
    (writesFrom a ds).map (fun x => (x.addr, x.dir, x.be))
      = (List.range ds.length).map fun k =>
          (a + BitVec.ofNat 20 k, Direction.write, (15 : Lanes)) := by
  rw [writesFrom_eq, List.map_map]
  rfl

theorem writesFrom_data (a : WAddr) (ds : List Word) :
    (writesFrom a ds).map (fun x => x.data) = ds := by
  induction ds generalizing a with
  | nil => rfl
  | cons d ds ih => rw [writesFrom, List.map_cons, ih, writeAt]

theorem writeAt_data (a : WAddr) (ds : List Word) :
    (ds.map (writeAt a)).map (fun x => x.data) = ds := by
  rw [List.map_map]
  exact List.map_id ds

theorem commitWrites_head {p : Port} {got : List Word}
    (hlen : (spec.dataStage ses.stage).length = spec.dataWords) :
    (commitWrites spec ses p got).map (fun x => (x.addr, x.dir, x.be))
      = ((List.range spec.dataWords).map fun k =>
            (ses.base + BitVec.ofNat 20 (spec.firstData + k), Direction.write, (15 : Lanes)))
          ++ (if spec.check then
                [(ses.base + BitVec.ofNat 20 (spec.reclen - 1), Direction.write, (15 : Lanes))]
              else [])
          ++ (if spec.stamp then [(ses.base, Direction.write, (15 : Lanes))] else []) := by
  unfold commitWrites
  simp only [List.map_append, writesFrom_head, formData_length, hlen, wordAfter,
    add_ofNat_add_ofNat, newCheck, newStamp]
  congr 1
  · congr 1
    cases spec.check <;> rfl
  · cases spec.stamp <;> rfl

theorem commitWrites_data {p : Port} {got : List Word} :
    (commitWrites spec ses p got).map (fun x => x.data)
      = formData (spec.dataStage ses.stage) (mergedWords spec got)
        ++ newCheck spec (newStamp spec p got)
            (formData (spec.dataStage ses.stage) (mergedWords spec got))
        ++ newStamp spec p got := by
  unfold commitWrites
  simp only [List.map_append, writesFrom_data, writeAt_data]

end

/-! ## The data words formed (R64) -/

/-- A data word as it is written: each byte staged where its MASK bit is set, else the one merged. -/
def FormedFrom (st : Staged) (merged : Option Word) (d : Word) : Prop :=
  ∀ j < 4, (enabled st.mask j = true → lane d j = lane st.bytes j)
    ∧ (enabled st.mask j = false → ∀ v, merged = some v → lane d j = lane v j)

theorem formedFrom_whole {st : Staged} (h : st.whole = true) (merged : Option Word) :
    FormedFrom st merged st.bytes := by
  intro j hj
  have hmask : st.mask = 15 := by simpa [Staged.whole, allLanes] using h
  refine ⟨fun _ => rfl, fun hoff => ?_⟩
  rw [hmask] at hoff
  interval_cases j <;> cases hoff

theorem formedFrom_merge (st : Staged) (v : Word) :
    FormedFrom st (some v) (mergeLanes st.mask st.bytes v) := by
  intro j hj
  rw [lane_mergeLanes _ _ _ hj]
  refine ⟨fun hon => if_pos hon, fun hoff v' hv => ?_⟩
  cases hv
  rw [hoff]
  rfl

theorem formData_formed (stage : List Staged) (merged : List Word) (k : Nat) {st : Staged}
    (hst : stage[k]? = some st) :
    ∃ d, (formData stage merged)[k]? = some d
      ∧ FormedFrom st merged[((stage.take k).filter fun x => x.mask != 15).length]? d := by
  induction stage generalizing merged k with
  | nil => cases hst
  | cons x xs ih =>
    unfold formData
    cases k with
    | zero =>
      obtain rfl : x = st := Option.some.inj hst
      cases hw : x.whole with
      | true => exact ⟨x.bytes, rfl, formedFrom_whole hw _⟩
      | false =>
        rw [if_neg Bool.false_ne_true]
        cases merged with
        | nil => exact ⟨x.bytes, rfl, fun j _ => ⟨fun _ => rfl, fun _ v hv => nomatch hv⟩⟩
        | cons v vs => exact ⟨_, rfl, formedFrom_merge x v⟩
    | succ k =>
      have hfilter : ∀ l : List Staged, (x :: l).filter (fun y => y.mask != 15)
          = if x.whole = true then l.filter (fun y => y.mask != 15)
            else x :: l.filter (fun y => y.mask != 15) := fun l => by
        rw [List.filter_cons]
        have hx : (x.mask != 15) = !x.whole := rfl
        rw [hx]
        cases x.whole <;> rfl
      rw [List.take_succ_cons, hfilter]
      cases hw : x.whole with
      | true =>
        rw [if_pos rfl, if_pos rfl]
        exact ih merged k hst
      | false =>
        rw [if_neg Bool.false_ne_true, if_neg Bool.false_ne_true]
        cases merged with
        | nil => exact ih [] k hst
        | cons v vs => exact ih vs k hst

/-- A check word that is the CRC-32 of the words before it passes the check test (R85). -/
theorem checkHolds_append (words : List Word) : checkHolds (words ++ [crc32 words]) = true := by
  rw [checkHolds, List.getLast?_concat, List.dropLast_concat]
  exact decide_eq_true rfl

/-- Settles O24: the reads, the writes and their data, and the check word over them. -/
theorem commitBurstWords : Obligations.CommitBurstWords := by
  refine ⟨?accesses, fun stage merged k st hst => formData_formed stage merged k hst, ?check⟩
  case accesses =>
    intro spec ses p got hlen _ hwords first at_ data
    have hstage := RecordSpec.dataStage_length hlen hwords
    refine ⟨(commitReads_eq hstage).trans ?_, commitWrites_head hstage, commitWrites_data⟩
    congr 1
    split
    · refine congrArg (List.map _) (List.filter_congr fun k hk => ?_)
      rw [Bool.eq_iff_iff, decide_eq_true_iff]
      exact RecordSpec.not_whole_iff (List.mem_range.mp hk) hstage
    · rfl
  case check =>
    intro spec ses p got hcheck data words
    exact ⟨if_pos hcheck, checkHolds_append words⟩

end Sys2Proof.Machine
end

section
/-! PROOFS. Settles O37, O40, O41 and O45: the choice of the Notice Unit, the loader's steps up to the
DONE write, and the release of what LOADING deferred. -/

namespace Sys2Proof.Machine

/-! ## The choice of the Notice Unit (R123) -/

theorem State.not_burstCarried_iff (s : State) :
    s.burstCarried = false
      ↔ ∀ g, s.granted = some g → ∀ q n, g.op ≠ .entry q n ∧ g.op ≠ .fullRing q n
          ∧ g.op ≠ .lossReport q n := by
  constructor
  · intro hb g hg q n
    rw [← Bool.not_eq_true, State.burstCarried_of_granted hg] at hb
    exact ⟨fun h => hb ⟨q, n, .inl h⟩, fun h => hb ⟨q, n, .inr (.inl h)⟩,
      fun h => hb ⟨q, n, .inr (.inr h)⟩⟩
  · intro h
    cases hg : s.granted with
    | none => simp only [State.burstCarried, hg]
    | some g => exact State.no_burst_of_op hg (h g hg)

/-- The Notice Unit makes a choice: it has no claim and its burst is not carried. -/
def State.FreeToChoose (s : State) : Prop :=
  s.noticeClaim = none
    ∧ ∀ g, s.granted = some g → ∀ q n, g.op ≠ .entry q n ∧ g.op ≠ .fullRing q n
        ∧ g.op ≠ .lossReport q n

theorem State.freeToChoose_iff (s : State) :
    s.FreeToChoose ↔ (s.noticeClaim.isNone && !s.burstCarried) = true := by
  rw [State.FreeToChoose, ← State.not_burstCarried_iff, Bool.and_eq_true, Option.isNone_iff_eq_none,
    Bool.not_eq_true']

theorem State.chooseNotice_of_free {s : State} (h : s.FreeToChoose) :
    s.chooseNotice = { s with noticeClaim := s.noticeChoice } := if_pos (s.freeToChoose_iff.mp h)

theorem State.chooseNotice_of_not_free {s : State} (h : ¬ s.FreeToChoose) : s.chooseNotice = s :=
  if_neg fun hb => h (s.freeToChoose_iff.mpr hb)

theorem State.lossDue_iff (s : State) (q : Port) :
    s.lossDue q = true ↔ (s.ringPlace q).isSome = true ∧ (s.rings.get q).lrep = true :=
  Bool.and_eq_true_iff

/-- The head entry waits for the ring: it is not deferred, and the ring is in its set, not handled. -/
def State.HeadFor (s : State) (q : Port) : Prop :=
  ∃ e es, s.queue = e :: es ∧ e.deferred = false ∧ e.dest.get q = true ∧ e.handled.get q = false

/-- The choice when no loss report is due. -/
def State.headChoice (s : State) : Option NoticeClaim :=
  match s.queue with
  | [] => none
  | e :: _ => if e.deferred then none else e.nextRing.map .head

theorem State.noticeChoice_lossA {s : State} (h : s.lossDue .a = true) :
    s.noticeChoice = some (.lossReport .a) := if_pos h

theorem State.noticeChoice_lossB {s : State} (ha : s.lossDue .a = false) (h : s.lossDue .b = true) :
    s.noticeChoice = some (.lossReport .b) := by
  simp only [State.noticeChoice, ha, h, Bool.false_eq_true, if_true, if_false]

theorem State.noticeChoice_head {s : State} (ha : s.lossDue .a = false) (hb : s.lossDue .b = false) :
    s.noticeChoice = s.headChoice := by
  simp only [State.noticeChoice, ha, hb, Bool.false_eq_true, if_false]
  rfl

theorem State.headChoice_a {s : State} (h : s.HeadFor .a) : s.headChoice = some (.head .a) := by
  obtain ⟨e, es, hq, hd, hin, hout⟩ := h
  have hin : e.dest.a = true := hin
  have hout : e.handled.a = false := hout
  simp only [State.headChoice, hq, hd, QueueEntry.nextRing, hin, hout, Bool.not_false,
    Bool.and_true, Bool.false_eq_true, if_true, if_false, Option.map_some]

theorem State.headChoice_b {s : State} (ha : ¬ s.HeadFor .a) (h : s.HeadFor .b) :
    s.headChoice = some (.head .b) := by
  obtain ⟨e, es, hq, hd, hin, hout⟩ := h
  have hskip : (e.dest.a && !e.handled.a) = false := by
    rw [← Bool.not_eq_true, Bool.and_eq_true, Bool.not_eq_true']
    exact fun hboth => ha ⟨e, es, hq, hd, hboth.1, hboth.2⟩
  have hin : e.dest.b = true := hin
  have hout : e.handled.b = false := hout
  simp only [State.headChoice, hq, hd, QueueEntry.nextRing, hskip, hin, hout, Bool.not_false,
    Bool.and_true, Bool.false_eq_true, if_true, if_false, Option.map_some]

theorem State.headChoice_none {s : State} (ha : ¬ s.HeadFor .a) (hb : ¬ s.HeadFor .b) :
    s.headChoice = none := by
  unfold State.headChoice
  split
  · rfl
  next e es hq =>
    cases hd : e.deferred with
    | true => rfl
    | false =>
      have hskip : ∀ q, ¬ s.HeadFor q → (e.dest.get q && !e.handled.get q) = false := by
        intro q hn
        rw [← Bool.not_eq_true, Bool.and_eq_true, Bool.not_eq_true']
        exact fun hboth => hn ⟨e, es, hq, hd, hboth.1, hboth.2⟩
      have hnext : e.nextRing = none := by
        have h1 : (e.dest.a && !e.handled.a) = false := hskip .a ha
        have h2 : (e.dest.b && !e.handled.b) = false := hskip .b hb
        simp only [QueueEntry.nextRing, h1, h2, Bool.false_eq_true, if_false]
      rw [hnext]
      rfl

/-- Settles O37: the four choices of R123 in their order. -/
theorem noticeUnitMakesItsChoice : Obligations.NoticeUnitMakesItsChoice := by
  intro s due free head
  have hno : ∀ {q}, ¬ due q → s.lossDue q = false := fun {q} h => by
    rw [← Bool.not_eq_true, State.lossDue_iff]
    exact h
  refine ⟨fun h => State.chooseNotice_of_not_free h, fun hfree => ?_⟩
  rw [State.chooseNotice_of_free hfree]
  refine ⟨fun ha => ?_, fun ha hb => ?_, fun ha hb => ⟨fun h => ?_, fun h1 h2 => ?_, fun h1 h2 => ?_⟩⟩
  · rw [State.noticeChoice_lossA ((s.lossDue_iff .a).mpr ha)]
  · rw [State.noticeChoice_lossB (hno ha) ((s.lossDue_iff .b).mpr hb)]
  · rw [State.noticeChoice_head (hno ha) (hno hb), State.headChoice_a h]
  · rw [State.noticeChoice_head (hno ha) (hno hb), State.headChoice_b h1 h2]
  · rw [State.noticeChoice_head (hno ha) (hno hb), State.headChoice_none h1 h2]

/-! ## The loader up to the DONE write (R147 to R156) -/

section
variable {s : State} {g : Granted} {w : WordAccess} {ld : Load}

theorem exec_inProgressWriteCompletes (ans : Answer) (h : s.LastOnBus g w) (hop : g.op = .status)
    (hl : s.part = .loading ld) (hph : ld.phase = .starting) :
    exec (.inProgressWriteCompletes ans) s = .next ((s.answered w ans).toPhase ld .draining) := by
  simp only [exec, execInProgressWriteCompletes, h.lastAccess, hop, hl, hph]
  rfl

theorem exec_imageReadCompletes (ans : Answer) (h : s.LastOnBus g w) (hop : g.op = .imageRead)
    (hl : s.part = .loading ld) (hph : ld.phase = .reading) :
    exec (.imageReadCompletes ans) s
      = .next ((s.answered w ans).applyVerdict ld
          (validate s.straps ld.reqN (gotAfter g w (s.answerData w ans)))) := by
  simp only [exec, execImageReadCompletes, h.lastAccess, hop, hl, hph]
  rfl

theorem exec_ringHeaderWriteCompletes {q : Port} {cand : RecordMap} (ans : Answer)
    (h : s.LastOnBus g w) (hop : g.op = .ringHeader q) (hl : s.part = .loading ld)
    (hph : ld.phase = .installing cand) :
    exec (.ringHeaderWriteCompletes ans) s = .next ((s.answered w ans).claimAfterHeader cand q) := by
  simp only [exec, execRingHeaderWriteCompletes, h.lastAccess, hop, hl, hph]
  rfl

theorem exec_drained (hl : s.part = .loading ld) (hph : ld.phase = .draining) :
    exec .drained s
      = if s.drained = true then .next { s.toPhase ld .reading with loaderClaim := some .imageRead }
        else .next s := by
  simp only [exec, execDrained, hl, hph]

end

theorem State.drained_iff (s : State) :
    s.drained = true
      ↔ (∀ e ∈ s.queue, e.deferred = true)
        ∧ (∀ q, (s.ringPlace q).isSome = true → (s.rings.get q).lrep = false)
        ∧ s.FreeToChoose := by
  have hloss : ∀ q, s.lossDue q = false
      ↔ ((s.ringPlace q).isSome = true → (s.rings.get q).lrep = false) := by
    intro q
    rw [← Bool.not_eq_true, State.lossDue_iff, not_and, Bool.not_eq_true]
  rw [State.freeToChoose_iff]
  simp only [State.drained, Bool.and_eq_true, List.all_eq_true, Bool.not_eq_true', hloss, and_assoc]
  refine and_congr_right fun _ => ?_
  rw [← and_assoc]
  refine and_congr_left fun _ => ⟨fun ⟨ha, hb⟩ q => ?_, fun h => ⟨h .a, h .b⟩⟩
  cases q with
  | a => exact ha
  | b => exact hb

/-- Settles O40: each loader step by the PHASE. -/
theorem loaderDrainsThenReads : Obligations.LoaderDrainsThenReads := by
  constructor
  · intro ans s g w ld h hop hl hph
    rw [exec_inProgressWriteCompletes ans h hop hl hph]
    rfl
  · intro s ld hl hph isDrained
    rw [exec_drained hl hph]
    refine ⟨fun h => ?_, fun h => ?_⟩
    · rw [if_pos (s.drained_iff.mpr h)]
      rfl
    · rw [if_neg fun hd => h (s.drained_iff.mp hd)]

theorem State.answered_straps (s : State) (w : WordAccess) (ans : Answer) :
    (s.answered w ans).straps = s.straps := by
  rw [State.answered, State.answer_frame]

theorem State.answered_seq (s : State) (w : WordAccess) (ans : Answer) :
    (s.answered w ans).seq = s.seq := by
  rw [State.answered, State.answer_frame]

theorem State.answered_torn (s : State) (w : WordAccess) (ans : Answer) :
    (s.answered w ans).torn = s.torn := by
  rw [State.answered, State.answer_frame]

theorem State.claimStatus_eq (s : State) (r : LoadResult) (windows seq torn : BitVec 8) :
    s.claimStatus r windows seq torn
      = { s with
          loaderClaim := some (.status
            (inOrder s.straps.imgOrd (torn ++ seq ++ windows ++ r.code)))
          result := r } := rfl

/-- The claim of the DONE status word (R156), in the terms of the state the memory answered. -/
theorem State.claimDone_eq {s t : State} (cand : RecordMap) (hst : t.straps = s.straps)
    (hseq : t.seq = s.seq) (htorn : t.torn = s.torn) :
    t.claimDone cand
      = { t with
          result := .done
          loaderClaim := some (.status (inOrder s.straps.imgOrd
            (BitVec.ofNat 8 s.torn.length ++ (s.seq + 1)
              ++ BitVec.ofNat 8 cand.windows.length ++ (1 : BitVec 8)))) } := by
  rw [State.claimDone, State.claimStatus_eq, hst, hseq, htorn]
  rfl

/-- Settles O41: the verdict's claim, and the claim after a ring header. -/
theorem loaderValidatesAndInstallsInOrder : Obligations.LoaderValidatesAndInstallsInOrder := by
  constructor
  · intro ans s g w ld h hop hl hph hd raw word
    have hraw : gotAfter g w (s.answerData w ans) = raw := by rw [gotAfter_eq, if_pos hd]
    rw [exec_imageReadCompletes ans h hop hl hph, hraw]
    constructor
    · intro res hv
      rw [hv, State.applyVerdict, State.failLoad, State.claimStatus_eq]
      dsimp only [State.toPhase]
      rw [State.answered_straps, State.answered_seq]
    · intro cand hv v
      rw [hv, State.applyVerdict, State.claimInstall]
      refine congrArg Host.Outcome.next ?_
      split
      · rfl
      split
      · rfl
      · exact State.claimDone_eq cand (s.answered_straps w ans) (s.answered_seq w ans)
          (s.answered_torn w ans)
  · intro ans s g w q ld cand h hop hl hph
    rw [exec_ringHeaderWriteCompletes ans h hop hl hph]
    refine congrArg Host.Outcome.next ?_
    have hdone := State.claimDone_eq cand (s.answered_straps w ans) (s.answered_seq w ans)
      (s.answered_torn w ans)
    cases q with
    | a =>
      by_cases hb : cand.rings.b.isSome = true
      · rw [if_pos ⟨rfl, hb⟩, State.claimAfterHeader, if_pos hb]
      · rw [if_neg fun h => hb h.2, State.claimAfterHeader, if_neg hb]
        exact hdone
    | b =>
      rw [if_neg nofun]
      exact hdone

/-! ## The release of what LOADING deferred (R137) -/

/-- An entry as it is released into the rings of a map. -/
def RecordMap.released (m : RecordMap) (e : QueueEntry) : QueueEntry :=
  if e.deferred = true then { e with dest := m.resolve e.dest, deferred := false } else e

/-- The entry stays as it is released: it is not deferred, or a ring of its set is left. -/
def RecordMap.Keeps (m : RecordMap) (e : QueueEntry) : Prop :=
  e.deferred = true → ∃ q, (m.resolve e.dest).get q = true

theorem RecordMap.releaseEntries_cons (m : RecordMap) (e : QueueEntry) (es : List QueueEntry) :
    (m.Keeps e → m.releaseEntries (e :: es) = m.released e :: m.releaseEntries es)
      ∧ (¬ m.Keeps e → m.releaseEntries (e :: es) = m.releaseEntries es) := by
  have hempty : emptySet (m.resolve e.dest) = true ↔ ¬ ∃ q, (m.resolve e.dest).get q = true := by
    rw [emptySet_iff, not_exists]
  by_cases hd : e.deferred = true
  · refine ⟨fun hk => ?_, fun hk => ?_⟩
    · rw [RecordMap.releaseEntries, if_pos hd, if_neg fun h => hempty.mp h (hk hd),
        RecordMap.released, if_pos hd]
    · rw [RecordMap.releaseEntries, if_pos hd, if_pos (hempty.mpr fun h => hk fun _ => h)]
  · refine ⟨fun _ => ?_, fun hk => absurd (fun h => absurd h hd) hk⟩
    rw [RecordMap.releaseEntries, if_neg hd, RecordMap.released, if_neg hd]

theorem RecordMap.releaseEntries_eq (m : RecordMap) {keep : QueueEntry → Bool}
    (hkeep : ∀ e, keep e = true ↔ m.Keeps e) (l : List QueueEntry) :
    m.releaseEntries l = (l.filter keep).map m.released := by
  induction l with
  | nil => rfl
  | cons e es ih =>
    obtain ⟨hyes, hno⟩ := m.releaseEntries_cons e es
    by_cases hk : keep e = true
    · rw [hyes ((hkeep e).mp hk), List.filter_cons_of_pos hk, List.map_cons, ih]
    · rw [hno (mt (hkeep e).mpr hk), List.filter_cons_of_neg hk, ih]

theorem Ring.addDeferred_eq (r : Ring) (configured : Bool) (n : Count) :
    r.addDeferred configured n
      = if configured = true ∧ n ≠ 0 then
          { r with plost := BitVec.ofNat 16 (min 65535 (r.plost.toNat + n.toNat)), lrep := true }
        else r := by
  have hcond : (configured && n != 0) = true ↔ configured = true ∧ n ≠ 0 := by simp
  unfold Ring.addDeferred
  by_cases h : configured = true ∧ n ≠ 0
  · rw [if_pos (hcond.mpr h), if_pos h, satAdd_eq_min]
  · rw [if_neg (mt hcond.mp h), if_neg h]

theorem State.releaseDeferred_of_map {s : State} {m : RecordMap} (hm : s.map = some m) :
    s.releaseDeferred
      = { s with
          queue := m.releaseEntries s.queue
          rings :=
            { a := s.rings.a.addDeferred m.rings.a.isSome s.deferredLost.a,
              b := s.rings.b.addDeferred m.rings.b.isSome s.deferredLost.b }
          deferredLost := Both.same 0 } := by
  simp only [State.releaseDeferred, hm]

theorem State.releaseDeferred_of_no_map {s : State} (hm : s.map = none) :
    s.releaseDeferred
      = { s with
          queue := s.queue.filter (fun e => !e.deferred)
          deferredLost := Both.same 0 } := by
  simp only [State.releaseDeferred, hm]

theorem State.releaseDeferred_deferredLost (s : State) :
    s.releaseDeferred.deferredLost = Both.same 0 := by
  cases hm : s.map with
  | none => rw [State.releaseDeferred_of_no_map hm]
  | some m => rw [State.releaseDeferred_of_map hm]

/-- Settles O45: entries and counts against the rings of the map in force. -/
theorem deferredNoticesAreReleased : Obligations.DeferredNoticesAreReleased := by
  intro s
  refine ⟨fun q => ?_, fun hm => ?_, ?_, ?_⟩
  · rw [State.releaseDeferred_deferredLost, Both.get_same]
  · rw [State.releaseDeferred_of_no_map hm]
    exact ⟨rfl, rfl⟩
  · intro m hm kept resolved
    rw [State.releaseDeferred_of_map hm]
    refine ⟨m.releaseEntries_eq (fun e => ?_) s.queue, fun q => ?_⟩
    · rw [decide_eq_true_iff, RecordMap.Keeps]
      refine imp_congr_right fun _ => ⟨fun h => ?_, fun ⟨q, h⟩ => ?_⟩
      · obtain h | h := h
        · exact ⟨.a, (m.get_resolve_iff e.dest .a).mpr h⟩
        · exact ⟨.b, (m.get_resolve_iff e.dest .b).mpr h⟩
      · have hk := (m.get_resolve_iff e.dest q).mp h
        cases q with
        | a => exact .inl hk
        | b => exact .inr hk
    · cases q with
      | a => exact Ring.addDeferred_eq s.rings.a m.rings.a.isSome s.deferredLost.a
      | b => exact Ring.addDeferred_eq s.rings.b m.rings.b.isSome s.deferredLost.b
  · cases hm : s.map with
    | none => rw [State.releaseDeferred_of_no_map hm]
    | some m => rw [State.releaseDeferred_of_map hm]

end Sys2Proof.Machine
end

section
/-! PROOFS. Settles O47 to O51: what the memory limit does to each kind of operation, and what the hold
limit does to an access that waits. -/

namespace Sys2Proof.Machine

/-! ## An expired operation ends -/

theorem exec_memoryLimitExpires {s : State} {g : Granted} {w : WordAccess} {rest : List WordAccess}
    (order : EndOrder) (h : s.Overdue g w rest) :
    exec (.memoryLimitExpires order) s = .next ((s.expired w).expire g w order) := by
  simp only [exec, execMemoryLimitExpires, h.memoryDue]
  rfl

theorem State.expired_read {s : State} {w : WordAccess} (h : w.dir = .read) :
    s.expired w = { s with granted := none } := by
  rw [State.expired, State.landExpired, State.landOn_read _ h]

theorem State.Carries.expired {s : State} {p : Port} {acc : Access} {t : Option Taken} {job : Job}
    (h : s.Carries p acc t job) (w : WordAccess) : (s.expired w).Carries p acc t job := by
  rw [State.Carries, State.expired_engines]
  exact h

theorem State.endFault_of_engines {s x : State} (he : x.engines = s.engines) (p : Port)
    (acc : Access) :
    x.endFault p acc
      = x.ended p (s.engines.get p).sessions (s.engines.get p).captures
          (.fault (dataOn acc.dir 0)) := by
  rw [State.endFault_eq, State.ended, he]

theorem State.freeSession_endFault (s : State) (p : Port) (w r : Nat) (acc : Access) :
    (s.freeSession p w r).endFault p acc
      = s.ended p (sessionsBut w r (s.engines.get p).sessions) (s.engines.get p).captures
          (.fault (dataOn acc.dir 0)) := by
  rw [State.freeSession_eq, State.endFault_eq, State.withPort_withPort, State.withPort_engines,
    State.withPort_pins, Both.get_set_self, Both.get_set_self, State.ended]

theorem State.freeCapture_endFault (s : State) (p : Port) (w r : Nat) (acc : Access) :
    (s.freeCapture p w r).endFault p acc
      = s.ended p (s.engines.get p).sessions (capturesBut w r (s.engines.get p).captures)
          (.fault (dataOn acc.dir 0)) := by
  rw [State.freeCapture_eq, State.endFault_eq, State.withPort_withPort, State.withPort_engines,
    State.withPort_pins, Both.get_set_self, Both.get_set_self, State.ended]

theorem State.raise_pins (s : State) (r : Report) : (s.raise r).pins = s.pins := by
  obtain he | ⟨n, d, b, -, he⟩ | ⟨d, he⟩ | ⟨d, he⟩ := s.raise_cases r <;> rw [he] <;> rfl

/-- A notice may be received before or after an access ends. -/
theorem State.raise_ended (s : State) (p : Port) (ss : List Session) (cs : List Capture)
    (o : PortOut) (r : Report) : (s.raise r).ended p ss cs o = (s.ended p ss cs o).raise r := by
  rw [State.ended, State.ended, State.raise_withPort, State.raise_pins]

/-! ## Single operations (R51, R105, R106, R132) -/

theorem State.unwatch_watched {s x : State} (hr : x.rings = s.rings) (q : Port) (n : Count) :
    x.unwatch (.single (.watched q n))
      = { x with rings := s.rings.set q { s.rings.get q with watch := none } } := by
  rw [← hr]
  rfl

theorem State.expireSingle_bare {s : State} {p : Port} {acc : Access} {purpose : Purpose}
    (h : s.Carries p acc none (.single purpose)) :
    s.expireSingle p = (s.unwatch (.single purpose)).endFault p acc := by
  simp only [State.expireSingle, h.inFlight]

theorem State.expireSingle_classed {s : State} {p : Port} {acc : Access} {t : Taken}
    {purpose : Purpose} (h : s.Carries p acc (some t) (.single purpose)) :
    s.expireSingle p
      = ((s.unwatch (.single purpose)).endFault p acc).raise
          (timeoutReport p (singleDetail acc.dir) t.cls.windowField acc.addr 0) := by
  simp only [State.expireSingle, h.inFlight]

/-- Settles O47: the access ends FAULT, with a notice unless it was taken in BARE. -/
theorem expiredSingleOperation : Obligations.ExpiredSingleOperation := by
  intro order s g w rest p acc purpose h hop v base
  have hbase : (s.expired w).unwatch (.single purpose) = base := by
    cases purpose with
    | watched q n => exact State.unwatch_watched (s.expired_rings w) q n
    | ordinary => rfl
    | request n => rfl
    | ownRead st => rfl
  have hend : ((s.expired w).unwatch (.single purpose)).endFault p acc = v base := by
    rw [State.endFault_of_engines ((State.unwatch_engines _ _).trans (s.expired_engines w)), hbase]
  constructor
  · intro hc
    rw [exec_memoryLimitExpires order h, State.expire, hop]
    dsimp only
    rw [State.expireSingle_bare (hc.expired w), hend]
  · intro t hc
    have hrep : timeoutReport p (singleDetail acc.dir) t.cls.windowField acc.addr 0
        = { kind := .memTimeout, port := some p,
            detail := match acc.dir with | .read => 1 | .write => 2,
            window := t.cls.windowField, address := acc.addr, value := 0,
            dest := Both.only p } := by
      cases hd : acc.dir <;> simp only [timeoutReport, singleDetail, TimeoutDetail.code]
    rw [exec_memoryLimitExpires order h, State.expire, hop]
    dsimp only
    rw [State.expireSingle_classed (hc.expired w), hend]
    exact congrArg
      (fun r => Host.Outcome.next (((v base).raise r).chooseAfter order.grantAtEnd)) hrep

/-! ## The reads of a record's operation (R44, R70, R92) -/

section
variable {s : State} {p : Port} {acc : Access} {t : Taken} {a r o : Nat} {b : WAddr}

theorem State.expireStampRead_eq (hc : s.Carries p acc (some t) .stampRead)
    (hrec : IsRecord t.cls a r o b) :
    s.expireStampRead p
      = { (s.ended p (sessionsBut a r (s.engines.get p).sessions) (s.engines.get p).captures
            (.fault (dataOn acc.dir 0))).raise
              (timeoutReport p .stampRead (BitVec.ofNat 5 a) b (Config.freeWord s.freeCount)) with
          freeCount := s.freeCount + 1 } := by
  simp only [State.expireStampRead, hc.flight, Taken.recordOf_eq hrec, State.freeSession_endFault]

theorem State.expireCapture_eq (g : Granted) (hc : s.Carries p acc (some t) .capture)
    (hrec : IsRecord t.cls a r o b) :
    s.expireCapture p g
      = (s.ended p (s.engines.get p).sessions (capturesBut a r (s.engines.get p).captures)
          (.fault (dataOn acc.dir 0))).raise
            (timeoutReport p .capture (BitVec.ofNat 5 a) b (BitVec.ofNat 32 g.done)) := by
  simp only [State.expireCapture, hc.flight, Taken.recordOf_eq hrec, State.freeCapture_endFault]

theorem State.expireReading_eq (w : WordAccess) (hc : s.Carries p acc (some t) .commit)
    (hrec : IsRecord t.cls a r o b) :
    s.expireReading p w
      = (s.ended p (sessionsBut a r (s.engines.get p).sessions) (s.engines.get p).captures
          (.fault (dataOn acc.dir 0))).raise
            (timeoutReport p .commit (BitVec.ofNat 5 a) b ((w.addr - b).setWidth 32)) := by
  simp only [State.expireReading, hc.flight, Taken.recordOf_eq hrec, State.freeSession_endFault]

end

/-- Settles O48: no byte of memory is at stake, and each operation gives up its session or capture. -/
theorem expiredReadOfARecord : Obligations.ExpiredReadOfARecord := by
  intro order s g w rest p acc t a r o b h hrec hd e v rep
  have hexec := exec_memoryLimitExpires order h
  rw [State.expired_read hd] at hexec
  rw [hexec]
  refine ⟨fun hop hc => ⟨Config.freeWord s.freeCount, ?_⟩, fun hop hc => ?_, fun hop hc => ?_⟩
  · rw [State.expire, hop]
    dsimp only
    rw [State.expireStampRead_eq (s := v) hc hrec]
    rfl
  · rw [State.expire, hop]
    dsimp only
    rw [State.expireCapture_eq (s := v) g hc hrec]
    rfl
  · rw [State.expire, hop]
    dsimp only
    rw [State.expireReading_eq (s := v) w hc hrec]
    rfl

/-! ## The writing phase of a commit (R71, R110, R111) -/

section
variable {s : State} {p : Port} {acc : Access} {t : Taken} {a r o : Nat} {b : WAddr}

theorem State.enterTorn_listed (h : ({ base := b, window := a } : TornEntry) ∈ s.torn) :
    s.enterTorn b a = s := if_pos h

theorem State.enterTorn_room (h : ({ base := b, window := a } : TornEntry) ∉ s.torn)
    (hroom : s.torn.length < 8) :
    s.enterTorn b a = { s with torn := s.torn ++ [{ base := b, window := a }] } :=
  (if_neg h).trans (if_pos hroom)

theorem State.enterTorn_full (h : ({ base := b, window := a } : TornEntry) ∉ s.torn)
    (hfull : 8 ≤ s.torn.length) {flag : Bool} (hflag : s.suspect[a]? = some flag) :
    s.enterTorn b a
      = if flag = true then s
        else { s with suspect := s.suspect.set a true }.raise (suspectReport a b) := by
  have hget : s.suspect.getD a false = flag := by
    rw [List.getD_eq_getElem?_getD, hflag, Option.getD_some]
  refine ((if_neg h).trans (if_neg (Nat.not_lt.mpr hfull))).trans ?_
  simp only [hget]

theorem tornReport_eq (spec : RecordSpec) (completed : Nat) (got : List Word) :
    tornReport p a b completed (foundGeneration spec got)
      = { kind := .torn, port := some p, detail := BitVec.ofNat 8 completed,
          window := BitVec.ofNat 5 a, address := b,
          value := if spec.stamp = true then
              BitVec.ofNat 32 ((got.getD 0 0).toNat % 65536) else 0,
          dest := Both.only p } := by
  have hlow : (lowHalf (got.getD 0 0)).setWidth 32
      = BitVec.ofNat 32 ((got.getD 0 0).toNat % 65536) := by
    apply BitVec.eq_of_toNat_eq
    simp [lowHalf]
  unfold tornReport foundGeneration
  split
  · rw [hlow]
  · rfl

theorem State.expireWriting_eq (g : Granted) (hc : s.Carries p acc (some t) .commit)
    (hrec : IsRecord t.cls a r o b) :
    s.expireWriting p g
      = ((s.enterTorn b a).ended p (sessionsBut a r (s.engines.get p).sessions)
          (s.engines.get p).captures (.fault (dataOn acc.dir 0))).raise
            (tornReport p a b (g.done - g.got.length) (foundGeneration (s.spec a) g.got)) := by
  simp only [State.expireWriting, hc.flight, Taken.recordOf_eq hrec, State.freeSession_endFault,
    State.enterTorn_engines]

end

theorem State.expired_torn (s : State) (w : WordAccess) : (s.expired w).torn = s.torn := by
  rw [State.expired, State.landExpired_frame]

theorem State.expired_suspect (s : State) (w : WordAccess) : (s.expired w).suspect = s.suspect := by
  rw [State.expired, State.landExpired_frame]

theorem State.expired_spec (s : State) (w : WordAccess) (a : Nat) :
    (s.expired w).spec a = s.spec a := by
  rw [State.expired, State.landExpired_frame]
  rfl

/-- Settles O49: the four cases of the Torn Record List and the flag. -/
theorem expiredWriteTearsTheRecord : Obligations.ExpiredWriteTearsTheRecord := by
  intro order s g w rest p acc t a r o b h hrec hop hc x v tornRep suspectRep
  have hexec : exec (.memoryLimitExpires order) s
      = .next (((((s.expired w).enterTorn b a).ended p
            (sessionsBut a r (s.engines.get p).sessions) (s.engines.get p).captures
            (.fault (dataOn acc.dir 0))).raise tornRep).chooseAfter order.grantAtEnd) := by
    rw [exec_memoryLimitExpires order h, State.expire, hop]
    dsimp only
    rw [State.expireWriting_eq g (hc.expired w) hrec, State.expired_engines, State.expired_spec,
      tornReport_eq]
  rw [hexec]
  refine ⟨fun hstays => ?_, fun hnew hroom => ?_, fun hnew hfull hflag => ?_⟩
  · have hsame : (s.expired w).enterTorn b a = s.expired w := by
      obtain hin | ⟨hnew, hfull, hflag⟩ := hstays
      · exact State.enterTorn_listed (by rw [State.expired_torn]; exact hin)
      · exact State.enterTorn_full (s := s.expired w) (by rw [State.expired_torn]; exact hnew)
          (by rw [State.expired_torn]; exact hfull) (by rw [State.expired_suspect]; exact hflag)
    rw [hsame]
  · rw [State.enterTorn_room (by rw [State.expired_torn]; exact hnew)
      (by rw [State.expired_torn]; exact hroom), State.expired_torn]
    rfl
  · rw [State.enterTorn_full (flag := false) (by rw [State.expired_torn]; exact hnew)
      (by rw [State.expired_torn]; exact hfull) (by rw [State.expired_suspect]; exact hflag),
      if_neg Bool.false_ne_true, State.raise_ended, State.expired_suspect]
    rfl

/-! ## Notice bursts and loader operations (R128, R147, R149, R156, R158) -/

theorem satAdd_zero (x : Count) : x = BitVec.ofNat 16 (min 65535 (x.toNat + 0)) := by
  have hx := x.isLt
  rw [Nat.add_zero, Nat.min_eq_right (by omega), BitVec.ofNat_toNat, BitVec.setWidth_eq]

section
variable {s : State} {q : Port}

/-- The ring of an expired notice burst, with `k` more lost (R128). -/
def Ring.burstExpired (r : Ring) (k : Nat) : Ring :=
  { r with plost := BitVec.ofNat 16 (min 65535 (r.plost.toNat + k)), lrep := false }

theorem State.expireNotice_entry (s : State) (q : Port) :
    s.expireNotice q true true = (s.setRing q ((s.rings.get q).burstExpired 1)).handled q := by
  have hring : { s.rings.get q with plost := satAdd (s.rings.get q).plost 1, lrep := false }
      = (s.rings.get q).burstExpired 1 := by rw [satAdd_one]; rfl
  rw [← hring]
  rfl

theorem Ring.burstExpired_zero (r : Ring) : { r with lrep := false } = r.burstExpired 0 := by
  rw [Ring.burstExpired, ← satAdd_zero]

theorem State.expireNotice_fullRing (s : State) (q : Port) :
    s.expireNotice q false true = (s.setRing q ((s.rings.get q).burstExpired 0)).handled q := by
  rw [← Ring.burstExpired_zero]
  rfl

theorem State.expireNotice_lossReport (s : State) (q : Port) :
    s.expireNotice q false false = s.setRing q ((s.rings.get q).burstExpired 0) := by
  rw [← Ring.burstExpired_zero]
  rfl

end

theorem State.expired_queue (s : State) (w : WordAccess) : (s.expired w).queue = s.queue := by
  rw [State.expired, State.landExpired_frame]

theorem State.expired_result (s : State) (w : WordAccess) : (s.expired w).result = s.result := by
  rw [State.expired, State.landExpired_frame]

/-- A ring replaced and handled for the head entry, once its burst has expired. -/
theorem State.setRing_handled_expired {s : State} {e : QueueEntry} {es : List QueueEntry}
    (w : WordAccess) (q : Port) (r : Ring) (hq : s.queue = e :: es) :
    ((s.expired w).setRing q r).handled q
      = { s.expired w with
          rings := s.rings.set q r
          queue := if e.dest.get q.other = true ∧ e.handled.get q.other = false
            then { e with handled := e.handled.set q true } :: es else es } := by
  simp only [State.handled, State.setRing, State.expired_rings, State.expired_queue, hq,
    handleHead_cons]

theorem State.expireLoader_fails {s : State} {ld : Load} (order : EndOrder)
    (hl : s.part = .loading ld) (h : ld.phase ≠ .reporting ∨ s.result ≠ .memory) :
    s.expireLoader order = (s.grantIf order.grantAtEnd).failLoad ld .memory := by
  unfold State.expireLoader
  simp only [hl]
  split
  next hph => exact if_neg fun hres => h.elim (fun hn => hn hph) fun hn => hn hres
  · rfl

/-- The load fails (R158), with the status word in the terms of an earlier state. -/
theorem State.failLoad_eq {s t : State} (hst : t.straps = s.straps) (hseq : t.seq = s.seq)
    (ld : Load) (r : LoadResult) :
    t.failLoad ld r
      = { t with
          part := .loading { ld with phase := .reporting }
          result := r
          loaderClaim := some (.status (inOrder s.straps.imgOrd
            ((0 : BitVec 8) ++ s.seq ++ (0 : BitVec 8) ++ r.code))) } := by
  rw [← hst, ← hseq]
  rfl

theorem State.grantIf_straps_seq (s : State) (b : Bool) :
    (s.grantIf b).straps = s.straps ∧ (s.grantIf b).seq = s.seq := by
  rw [s.grantIf_work b]
  exact ⟨rfl, rfl⟩

theorem State.expired_straps_seq (s : State) (w : WordAccess) :
    (s.expired w).straps = s.straps ∧ (s.expired w).seq = s.seq := by
  rw [State.expired, State.landExpired_frame]
  exact ⟨rfl, rfl⟩

/-- A loader operation other than the write of MEMORY has expired. -/
theorem exec_loaderExpires {s : State} {g : Granted} {w : WordAccess} {rest : List WordAccess}
    {ld : Load} (order : EndOrder) (h : s.Overdue g w rest) (hl : s.part = .loading ld)
    (hop : g.op = .imageRead ∨ g.op = .status ∨ ∃ q, g.op = .ringHeader q)
    (hfails : ld.phase ≠ .reporting ∨ s.result ≠ .memory) :
    exec (.memoryLimitExpires order) s
      = .next (((s.expired w).grantIf order.grantAtEnd).failLoad ld .memory).chooseNotice := by
  have hloader := State.expireLoader_fails (s := s.expired w) order ((s.expired_part w).trans hl)
    (by rw [State.expired_result]; exact hfails)
  rw [exec_memoryLimitExpires order h, ← hloader, State.expire]
  obtain hop | hop | ⟨q, hop⟩ := hop <;> rw [hop]

/-- Settles O50: the three notice bursts, and the loader's operations. -/
theorem expiredNoticeOrLoaderOperation : Obligations.ExpiredNoticeOrLoaderOperation := by
  intro order s g w rest h
  constructor
  · intro q n r less
    refine ⟨?handles, fun hop => ?_⟩
    case handles =>
      intro e es hq queue
      refine ⟨fun hop => ?_, fun hop => ?_⟩
      · rw [exec_memoryLimitExpires order h, State.expire, hop]
        dsimp only
        rw [State.expireNotice_entry, State.setRing_handled_expired w q _ hq, State.expired_rings]
        rfl
      · rw [exec_memoryLimitExpires order h, State.expire, hop]
        dsimp only
        rw [State.expireNotice_fullRing, State.setRing_handled_expired w q _ hq,
          State.expired_rings]
        rfl
    · rw [exec_memoryLimitExpires order h, State.expire, hop]
      dsimp only
      rw [State.expireNotice_lossReport, State.setRing, State.expired_rings]
      rfl
  · intro ld hl hop hfails
    obtain ⟨hgst, hgseq⟩ := (s.expired w).grantIf_straps_seq order.grantAtEnd
    obtain ⟨hst, hseq⟩ := s.expired_straps_seq w
    rw [exec_loaderExpires order h hl hop hfails,
      State.failLoad_eq (hgst.trans hst) (hgseq.trans hseq)]
    rfl

/-! ## The hold limit (R161, R168, R169) -/

theorem State.holdDue_iff (s : State) (acc : Access) :
    s.holdDue acc = true ↔ s.holdLimit ≤ age s.timebase acc.arrived := decide_eq_true_iff

section
variable {s : State} {p : Port} {acc : Access} {t : Option Taken} {job : Job}

theorem exec_holdLimitExpires :
    exec (.holdLimitExpires p) s = .next (s.expireNow (s.holdExpiry p)) := rfl

theorem State.holdExpiry_held (h : (s.engines.get p).estate = .held acc) :
    s.holdExpiry p
      = if s.holdDue acc = true then
          some (s.endFault p acc, holdReport p acc Config.noWindow false)
        else none := by
  simp only [State.holdExpiry, h]

theorem State.holdExpiry_waiting (h : (s.engines.get p).estate = .inMemory acc t job .waiting) :
    s.holdExpiry p
      = if s.holdDue acc = true then
          some ((s.dropJob p t job).endFault p acc,
            holdReport p acc (takenWindow t) job.forSession)
        else none := by
  simp only [State.holdExpiry, h]

/-- A claim that waits past the hold limit is withdrawn and its access ends. -/
theorem exec_holdLimitExpires_waiting
    (h : (s.engines.get p).estate = .inMemory acc t job .waiting)
    (hdue : s.holdLimit ≤ age s.timebase acc.arrived) :
    exec (.holdLimitExpires p) s
      = .next (((s.dropJob p t job).endFault p acc).raise
          (holdReport p acc (takenWindow t) job.forSession)).chooseNotice := by
  rw [exec_holdLimitExpires, State.holdExpiry_waiting h, if_pos ((s.holdDue_iff acc).mpr hdue)]
  rfl

theorem State.endFault_eq_ended (s : State) (p : Port) (acc : Access) :
    s.endFault p acc
      = s.ended p (s.engines.get p).sessions (s.engines.get p).captures
          (.fault (dataOn acc.dir 0)) := State.endFault_of_engines rfl p acc

end

theorem Taken.window_of_record {t : Taken} {a r o : Nat} {b : WAddr} (h : IsRecord t.cls a r o b) :
    t.cls.windowField = BitVec.ofNat 5 a := by
  obtain ⟨role, h⟩ := h
  rw [h]
  rfl

/-- Settles O51: by what waits, and whether it is due. -/
theorem holdLimitEndsTheAccess : Obligations.HoldLimitEndsTheAccess := by
  intro p s e rep fin due
  refine ⟨fun acc he hdue => ?_, ?single, ?record, fun h => ?_⟩
  case single =>
    intro acc t purpose he hdue v window
    have hwindow : takenWindow t = window := by cases t <;> rfl
    have hend : (s.dropJob p t (.single purpose)).endFault p acc
        = (s.unwatch (.single purpose)).ended p e.sessions e.captures
            (.fault (dataOn acc.dir 0)) :=
      State.endFault_of_engines (s.unwatch_engines (.single purpose)) p acc
    rw [exec_holdLimitExpires_waiting he hdue, hwindow, hend]
    refine congrArg
      (fun x : State => Host.Outcome.next (x.raise (rep acc window 0)).chooseNotice) ?_
    cases purpose with
    | watched q n => rfl
    | ordinary => rfl
    | request n => rfl
    | ownRead st => rfl
  case record =>
    intro acc t job a r o b he hdue hrec
    have hexec := exec_holdLimitExpires_waiting he hdue
    have hkey : recordOf (some t) = (a, r, o, b) := Taken.recordOf_eq hrec
    have hwindow : takenWindow (some t) = BitVec.ofNat 5 a := Taken.window_of_record hrec
    rw [hwindow] at hexec
    constructor
    · rintro (rfl | rfl) <;>
      · simp only [State.dropJob, hkey, State.freeSession_endFault] at hexec
        exact hexec
    · rintro rfl
      simp only [State.dropJob, hkey, State.freeCapture_endFault] at hexec
      exact hexec
  · rw [exec_holdLimitExpires, State.holdExpiry_held he, if_pos ((s.holdDue_iff acc).mpr hdue),
      State.endFault_eq_ended]
    rfl
  · have hnone : s.holdExpiry p = none := by
      obtain he | ⟨acc, t, j, he⟩ | ⟨acc, he, hdue⟩ | ⟨acc, t, j, he, hdue⟩ := h
      · simp only [State.holdExpiry, show (s.engines.get p).estate = .idle from he]
      · simp only [State.holdExpiry, show (s.engines.get p).estate = .inMemory acc t j .granted from he]
      · rw [State.holdExpiry_held he, if_neg (mt (s.holdDue_iff acc).mp hdue)]
      · rw [State.holdExpiry_waiting he, if_neg (mt (s.holdDue_iff acc).mp hdue)]
    rw [exec_holdLimitExpires, hnone]
    rfl

end Sys2Proof.Machine
end

section
/-! PROOFS. Settles O33 to O35: the completions that serve a session or a capture, outside LOADING and
in it. -/

namespace Sys2Proof.Machine

/-! ## What LOADING takes from a port whose operation has ended (R57, R94, R146) -/

theorem State.answered_spec (s : State) (w : WordAccess) (ans : Answer) (x : Nat) :
    (s.answered w ans).spec x = s.spec x := s.answer_spec w ans x

theorem State.answered_isLoading (s : State) (w : WordAccess) (ans : Answer) :
    (s.answered w ans).isLoading = s.isLoading := State.isLoading_of_part (s.answered_part w ans)

/-- The sessions abandoned by a load, each with its notice: the OPEN ones first (R57). -/
def State.abandonAtLoad (s : State) (p : Port) (ss : List Session) : State :=
  ((ss.filter fun x => decide (x.state = .open))
    ++ ss.filter fun x => decide (x.state ≠ .open)).foldl
      (fun y x => y.raise (abandonedReport p x .load)) s

theorem Engine.abandonedAtLoad_of_not_carried {e : Engine} (h : e.carried = false) :
    e.abandonedAtLoad
      = (e.sessions.filter fun x => decide (x.state = .open))
          ++ e.sessions.filter fun x => decide (x.state ≠ .open) := by
  have hopen : (fun ses : Session => !ses.isOpen) = fun x => decide (x.state ≠ .open) := by
    funext ses
    rw [Session.isOpen, decide_not]
  simp only [Engine.abandonedAtLoad, h, hopen, Bool.false_eq_true, if_false]
  rfl

theorem State.raiseAll_loadReports {s : State} {p : Port}
    (h : (s.engines.get p).carried = false) (x : State) :
    x.raiseAll (s.loadReports p) = x.abandonAtLoad p (s.engines.get p).sessions := by
  rw [State.raiseAll_eq, State.loadReports, Engine.abandonedAtLoad_of_not_carried h,
    List.foldl_map]
  rfl

theorem State.clearIfLoading_of_not_loading {s : State} (p : Port) (h : s.isLoading = false) :
    s.clearIfLoading p = s := by
  simp only [State.clearIfLoading, h, Bool.false_eq_true, if_false]

theorem State.withdraw_of_idle {s : State} {p : Port} (he : (s.engines.get p).estate = .idle) :
    s.withdraw p = s := by
  simp only [State.withdraw, he]

theorem State.withdraw_of_commit {s : State} {p : Port} {acc : Access} {t : Option Taken}
    (he : (s.engines.get p).estate = .inMemory acc t .commit .waiting) :
    s.withdraw p = s.setEState p (.held acc) := by
  simp only [State.withdraw, he, State.unwatch]

theorem State.emptyForLoad_of_not_carried {s : State} {p : Port}
    (h : (s.engines.get p).carried = false) :
    s.emptyForLoad p = ((s.withdraw p).setSessions p []).setCaptures p [] := by
  simp only [State.emptyForLoad, h, Bool.false_eq_true, if_false]

theorem State.emptied_eq (s : State) (p : Port) :
    (s.setSessions p []).setCaptures p []
      = s.withPort p { estate := (s.engines.get p).estate, sessions := [], captures := [] }
          (s.pins.get p) := by
  rw [State.setCaptures_eq, State.setSessions_eq, State.withPort_withPort, State.withPort_engines,
    State.withPort_pins, Both.get_set_self, Both.get_set_self]

/-- The access of the port has ended: its tables are emptied. -/
theorem State.clearIfLoading_of_idle {s : State} {p : Port} (hl : s.isLoading = true)
    (he : (s.engines.get p).estate = .idle) :
    s.clearIfLoading p
      = (s.withPort p { estate := .idle, sessions := [], captures := [] }
          (s.pins.get p)).abandonAtLoad p (s.engines.get p).sessions := by
  have hc : (s.engines.get p).carried = false := by simp only [Engine.carried, he]
  rw [State.clearIfLoading, if_pos hl, State.emptyForLoad_of_not_carried hc,
    State.raiseAll_loadReports hc, State.withdraw_of_idle he, State.emptied_eq, he]

/-- A closing write: its commit's claim is withdrawn and it is held (R146). -/
theorem State.clearIfLoading_of_commit {s : State} {p : Port} {acc : Access} {t : Option Taken}
    (hl : s.isLoading = true)
    (he : (s.engines.get p).estate = .inMemory acc t .commit .waiting) :
    s.clearIfLoading p
      = (s.withPort p { estate := .held acc, sessions := [], captures := [] }
          (s.pins.get p)).abandonAtLoad p (s.engines.get p).sessions := by
  have hc : (s.engines.get p).carried = false := by simp only [Engine.carried, he]
  rw [State.clearIfLoading, if_pos hl, State.emptyForLoad_of_not_carried hc,
    State.raiseAll_loadReports hc, State.withdraw_of_commit he, State.emptied_eq,
    State.setEState_eq, State.withPort_engines, State.withPort_pins, Both.get_set_self,
    Both.get_set_self, State.withPort_withPort]

section
variable {s : State} {p : Port} (ss : List Session) (cs : List Capture)

/-- An access has ended while the part is LOADING: what its port still has is given up. -/
theorem State.clearIfLoading_ended (hl : s.isLoading = true) (o : PortOut) :
    (s.ended p ss cs o).clearIfLoading p = (s.ended p [] [] o).abandonAtLoad p ss := by
  have hget : ((s.ended p ss cs o).engines.get p)
      = { estate := .idle, sessions := ss, captures := cs } := Both.get_set_self _ _ _
  have hpins : (s.ended p ss cs o).pins.get p = { s.pins.get p with out := o } :=
    Both.get_set_self _ _ _
  rw [State.clearIfLoading_of_idle (s := s.ended p ss cs o) hl (by rw [hget]), hget, hpins,
    State.ended, State.withPort_withPort]
  rfl

/-- A write has closed its session while the part is LOADING. -/
theorem State.clearIfLoading_closing (hl : s.isLoading = true) (acc : Access) (t : Taken)
    (x : Pins) :
    (s.withPort p
        { estate := .inMemory acc (some t) .commit .waiting, sessions := ss, captures := cs }
        x).clearIfLoading p
      = (s.withPort p { estate := .held acc, sessions := [], captures := [] } x).abandonAtLoad p
          ss := by
  rw [State.clearIfLoading_of_commit (s := s.withPort p _ x) (t := some t) hl
    (by rw [State.withPort_engines, Both.get_set_self]), State.withPort_withPort,
    State.withPort_engines, State.withPort_pins, Both.get_set_self, Both.get_set_self]

end

/-! ## The stamp read of an OPENING session (R43) -/

section
variable {s : State} {g : Granted} {w : WordAccess} {p : Port} {acc : Access} {t : Taken}
  {a r o : Nat} {b : WAddr} {ses : Session}

theorem exec_stampReadCompletes (ans : Answer) (h : s.LastOnBus g w) (hop : g.op = .stampRead p)
    (hf : s.CarriesFor p acc t .stampRead ses) (hrec : IsRecord t.cls a r o b) :
    exec (.stampReadCompletes ans) s
      = .next ((((s.answered w ans).stageWrite p acc t
          { ses with baseGen := some ((s.answerData w ans).extractLsb' 0 16),
                     opened := some s.timebase } o).clearIfLoading p).chooseNotice) := by
  simp only [exec, execStampReadCompletes, h.lastAccess, hop, State.sessionFlight_iff.mpr hf,
    Taken.recordOf_eq hrec]
  rfl

/-- A write staged once the memory has answered: the tables and the pins are the port's. -/
theorem State.answered_stageWrite (ans : Answer) (hd : acc.dir = .write) :
    (s.answered w ans).stageWrite p acc t ses o
      = if (s.spec ses.window).closes (ses.place o t.be t.data).stage = true then
          (s.answered w ans).withPort p
            { estate := .inMemory acc (some t) .commit .waiting,
              sessions := putSession { ses.place o t.be t.data with state := .closing }
                (s.engines.get p).sessions,
              captures := (s.engines.get p).captures }
            (s.pins.get p)
        else
          (s.answered w ans).ended p
            (putSession { ses.place o t.be t.data with state := .open } (s.engines.get p).sessions)
            (s.engines.get p).captures (.ready none) := by
  rw [State.stageWrite_eq, State.answered_spec, State.answered_engines, State.answered_pins,
    State.ended, State.answered_pins, hd]
  rfl

end

/-- Settles O33: the write staged, and outside LOADING nothing more; in LOADING the port emptied. -/
theorem stampReadOpensTheSession : Obligations.StampReadOpensTheSession := by
  intro ans s g w p acc t a r o b ses h hop hc hrec hses hd opened placed closes put sess rep
  have hkey := Taken.recordOf_eq hrec
  obtain ⟨hw, hr, -⟩ := Engine.sessionOf_key hses
  have hf : s.CarriesFor p acc t .stampRead ses := ⟨hc, by rw [hkey]; exact hses⟩
  have hput : ∀ x : Session, x.window = a → x.record = r →
      putSession x (s.engines.get p).sessions = put x := by
    intro x hxw hxr
    rw [putSession_eq, hxw, hxr]
  have hclosing : putSession { placed with state := .closing } (s.engines.get p).sessions
      = put { placed with state := .closing } := hput _ hw hr
  have hopen : putSession { placed with state := .open } (s.engines.get p).sessions
      = put { placed with state := .open } := hput _ hw hr
  have hstage : (s.answered w ans).stageWrite p acc t opened o
      = if closes = true then
          (s.answered w ans).withPort p
            { estate := .inMemory acc (some t) .commit .waiting,
              sessions := put { placed with state := .closing },
              captures := (s.engines.get p).captures }
            (s.pins.get p)
        else
          (s.answered w ans).ended p (put { placed with state := .open })
            (s.engines.get p).captures (.ready none) := by
    rw [← hclosing, ← hopen]
    exact State.answered_stageWrite ans hd
  have hexec := exec_stampReadCompletes ans h hop hf hrec
  change _ = Host.Outcome.next ((((s.answered w ans).stageWrite p acc t opened o).clearIfLoading
    p).chooseNotice) at hexec
  rw [hexec, hstage]
  refine ⟨fun hl hn => ?_, fun hl => ?_⟩
  · have hl' : (s.answered w ans).isLoading = false := by rw [State.answered_isLoading, hl]
    have hn' : (s.answered w ans).NoticeSettled :=
      (s.answered_choice w ans).settled hn fun hb => by
        rw [State.no_burst_of_op h.1 (by rw [hop]; exact fun _ _ => ⟨nofun, nofun, nofun⟩)] at hb
        cases hb
    have hquiet : ∀ e x, (((s.answered w ans).withPort p e x).clearIfLoading p).chooseNotice
        = (s.answered w ans).withPort p e x := fun e x => by
      rw [State.clearIfLoading_of_not_loading (s := (s.answered w ans).withPort p e x) p hl',
        State.chooseNotice_of_settled (hn'.withPort p e x)]
    split
    · rw [hquiet]
    · rw [State.ended, hquiet]
  · have hl' : (s.answered w ans).isLoading = true := by rw [State.answered_isLoading, hl]
    by_cases hcl : closes = true
    · have hsess : sess = put { placed with state := .closing } := by
        simp only [sess, if_pos hcl]
      rw [if_pos hcl, if_pos hcl, if_pos hcl, hsess, State.clearIfLoading_closing _ _ hl']
      rfl
    · have hsess : sess = put { placed with state := .open } := by
        simp only [sess, if_neg hcl]
      rw [if_neg hcl, if_neg hcl, if_neg hcl, hsess, State.clearIfLoading_ended _ _ hl',
        State.ended, State.answered_pins]
      rfl

/-! ## The commit burst (R61 to R63, R68, R112) -/

theorem State.freeSession_endReady (s : State) (p : Port) (w r : Nat) {acc : Access}
    (hd : acc.dir = .write) :
    (s.freeSession p w r).endReady p acc 0
      = s.ended p (sessionsBut w r (s.engines.get p).sessions) (s.engines.get p).captures
          (.ready none) := by
  rw [State.freeSession_eq, State.endReady_eq, State.withPort_withPort, State.withPort_engines,
    State.withPort_pins, Both.get_set_self, Both.get_set_self, State.ended, hd]
  rfl

section
variable {s : State} {g : Granted} {w : WordAccess} {rest : List WordAccess} {p : Port}
  {acc : Access} {t : Taken} {ses : Session}

theorem exec_commitStampRead_stale (ans : Answer) (h : s.OnBus g w rest)
    (hop : g.op = .commit p false) (hf : s.CarriesFor p acc t .commit ses)
    (hat : s.atCommitStamp ses g = true)
    (hstale : isStale (s.spec ses.window) ses (lowHalf (s.answerData w ans)) = true) :
    exec (.commitStampReadCompletes ans) s
      = .next ((s.answer w ans).endStale p acc ses (lowHalf (s.answerData w ans))
          ans.grantFirst) := by
  simp only [exec, execCommitStampReadCompletes, h.presented, hop, State.sessionFlight_iff.mpr hf,
    hat, hstale, if_true]

theorem exec_commitStampRead_goesOn (ans : Answer) (h : s.OnBus g w rest)
    (hop : g.op = .commit p false) (hf : s.CarriesFor p acc t .commit ses)
    (hat : s.atCommitStamp ses g = true)
    (hstale : isStale (s.spec ses.window) ses (lowHalf (s.answerData w ans)) = false) :
    exec (.commitStampReadCompletes ans) s
      = .next ((s.answer w ans).nextCommitAccess p ses rest (g.done + 1)
          (gotAfter g w (s.answerData w ans))) := by
  simp only [exec, execCommitStampReadCompletes, h.presented, hop, State.sessionFlight_iff.mpr hf,
    hat, hstale, h.2.2, List.tail_cons, if_true, Bool.false_eq_true, if_false]

theorem exec_commitBurstCompletes (ans : Answer) (h : s.LastOnBus g w)
    (hop : g.op = .commit p true) (hf : s.CarriesFor p acc t .commit ses) :
    exec (.commitBurstCompletes ans) s
      = .next ((((s.answered w ans).healTorn ses.base ses.window).freeSession p ses.window
          ses.record).endReady p acc 0) := by
  simp only [exec, execCommitBurstCompletes, h.lastAccess, hop, State.sessionFlight_iff.mpr hf]
  rfl

end

theorem isStale_guarded {spec : RecordSpec} {ses : Session} {base found : Count}
    (hpol : spec.policy = .guarded) (hbase : ses.baseGen = some base) :
    isStale spec ses found = true ↔ found ≠ base := by
  simp only [isStale, hpol, hbase, Option.getD_some, bne_iff_ne]

theorem isStale_of_last_or_same {spec : RecordSpec} {ses : Session} {found : Count}
    (h : spec.policy = .last ∨ ses.baseGen = some found) : isStale spec ses found = false := by
  cases hpol : spec.policy with
  | last => simp only [isStale, hpol]
  | guarded =>
    have hbase : ses.baseGen = some found := h.resolve_left (by rw [hpol]; exact nofun)
    rw [← Bool.not_eq_true, isStale_guarded hpol hbase]
    exact fun hne => hne rfl

theorem tornEntry_ne (e : TornEntry) (base : WAddr) (window : Nat) :
    (e != { base := base, window := window }) = !(e.base == base && e.window == window) := by
  obtain ⟨eb, ew⟩ := e
  rw [Bool.eq_iff_iff]
  simp [imp_iff_not_or]

theorem State.healTorn_eq (s : State) (base : WAddr) (window : Nat) :
    s.healTorn base window
      = { s with torn := s.torn.filter fun x => !(x.base == base && x.window == window) } := by
  simp only [State.healTorn, tornEntry_ne]

/-- Settles O34: stale, or on to the merge reads or the writes; and the end of the burst. -/
theorem commitIsStaleOrGoesOnAndEnds : Obligations.CommitIsStaleOrGoesOnAndEnds := by
  constructor
  · intro ans s g w rest p acc t a r o b ses h hop hc hrec hses hstamp hdone hdir hd found got
    have hkey := Taken.recordOf_eq hrec
    obtain ⟨hw, hr, -⟩ := Engine.sessionOf_key hses
    have hf : s.CarriesFor p acc t .commit ses := ⟨hc, by rw [hkey]; exact hses⟩
    have hat : s.atCommitStamp ses g = true := by
      rw [State.atCommitStamp, hw, hstamp, hdone]
      rfl
    have hgot : gotAfter g w (s.answerData w ans) = got := by rw [gotAfter_eq, if_pos hdir]
    constructor
    · intro base hpol hbase hne
      have hrep : staleReport p ses found
          = { kind := .stale, port := some p, detail := 0, window := BitVec.ofNat 5 a,
              address := ses.base, value := found ++ base, dest := Both.only p } := by
        rw [staleReport, hbase, hw]
        rfl
      rw [exec_commitStampRead_stale ans h hop hf hat
        ((isStale_guarded (by rw [hw]; exact hpol) hbase).mpr hne), State.endStale, hw, hr,
        State.freeSession_endFault, hd, ← hrep]
      have hend : (s.answer w ans).endOp = s.answered w ans := rfl
      rw [hend, State.answered_engines]
      rfl
    · intro hon
      rw [exec_commitStampRead_goesOn ans h hop hf hat
        (isStale_of_last_or_same (by rw [hw]; exact hon)), hgot, hdone]
      cases rest with
      | nil =>
        rw [State.nextCommitAccess, State.answer_issue, State.answer_spec, hw]
        rfl
      | cons x xs =>
        rw [State.nextCommitAccess, State.answer_issue]
        rfl
  · intro ans s g w p acc t a r o b ses h hop hc hrec hses hd
    have hkey := Taken.recordOf_eq hrec
    obtain ⟨hw, hr, -⟩ := Engine.sessionOf_key hses
    have hf : s.CarriesFor p acc t .commit ses := ⟨hc, by rw [hkey]; exact hses⟩
    rw [exec_commitBurstCompletes ans h hop hf, State.freeSession_endReady _ _ _ _ hd,
      State.healTorn_eq, hw, hr, ← State.answered_torn s w ans, ← State.answered_engines s w ans]
    rfl

/-! ## The capture burst (R83 to R87, R94) -/

theorem State.foundTorn_iff (s : State) (base : WAddr) (window : Nat) :
    s.foundTorn base window = true
      ↔ ({ base := base, window := window } : TornEntry) ∈ s.torn
        ∨ s.suspect[window]? = some true := by
  rw [State.foundTorn, Bool.or_eq_true, decide_eq_true_iff, List.getD_eq_getElem?_getD]
  refine or_congr_right ?_
  cases s.suspect[window]? with
  | none => simp
  | some flag => simp

theorem checkHolds_iff (words : List Word) :
    checkHolds words = true ↔ words.getLast? = some (crc32 words.dropLast) := decide_eq_true_iff

section
variable {s : State} {p : Port} {acc : Access} {t : Taken} {a r o : Nat} {b : WAddr} {cap : Capture}

theorem State.mismatch_iff (s : State) (c : Capture) (words : List Word) :
    s.mismatch c words = true
      ↔ ¬ s.foundTorn c.base c.window = true
        ∧ ((s.spec c.window).check = true
          ∧ words.getLast? ≠ some (crc32 words.dropLast)) := by
  rw [State.mismatch, Bool.and_eq_true, Bool.and_eq_true, Bool.not_eq_true', Bool.not_eq_true',
    ← Bool.not_eq_true, ← Bool.not_eq_true, checkHolds_iff, and_assoc]

/-- The state once a filled capture has served the word asked for, but for a mismatch's notice. -/
def State.filled (s : State) (p : Port) (acc : Access) (t : Taken) (a r o : Nat) (cap : Capture)
    (words : List Word) (bad : Bool) : State :=
  let cap' : Capture :=
    { cap with
      live := some { bad := bad, words := words, filled := s.timebase }
      readMask := cap.readMask ||| (1#32 <<< o) }
  s.ended p (s.engines.get p).sessions
    (if (List.range words.length).all (fun k => cap'.readMask.getLsbD k) = true
      then capturesBut a r (s.engines.get p).captures
      else (s.engines.get p).captures.map fun x =>
        if x.window == a && x.record == r then cap' else x)
    (if bad = true then .fault (some (portLines acc t (words.getD o 0)))
      else .ready (some (portLines acc t (words.getD o 0))))

theorem State.serve_filled (hd : acc.dir = .read) (hw : cap.window = a) (hr : cap.record = r)
    (words : List Word) (bad : Bool) :
    s.serve p acc t { cap with live := some { bad := bad, words := words, filled := s.timebase } }
        { bad := bad, words := words, filled := s.timebase } o
      = s.filled p acc t a r o cap words bad := by
  rw [State.serve_eq, putCapture_eq, hd]
  subst hw hr
  rfl

theorem State.fillCapture_sound (hd : acc.dir = .read) (hrec : IsRecord t.cls a r o b)
    (hw : cap.window = a) (hr : cap.record = r) {words : List Word}
    (hm : s.mismatch cap words = false) {bad : Bool} (hbad : s.foundTorn cap.base cap.window = bad) :
    s.fillCapture p acc t cap words = s.filled p acc t a r o cap words bad := by
  simp only [State.fillCapture, hm, hbad, Bool.or_false, Bool.false_eq_true, if_false,
    Taken.recordOf_eq hrec]
  exact State.serve_filled hd hw hr words bad

theorem State.raise_filled (s : State) (words : List Word) (bad : Bool) (x : Report) :
    (s.raise x).filled p acc t a r o cap words bad
      = (s.filled p acc t a r o cap words bad).raise x := by
  have ht : (s.raise x).timebase = s.timebase := by rw [s.raise_work x]
  unfold State.filled
  rw [State.raise_engines, ht]
  exact State.raise_ended _ _ _ _ _ _

theorem State.fillCapture_mismatch (hd : acc.dir = .read) (hrec : IsRecord t.cls a r o b)
    (hw : cap.window = a) (hr : cap.record = r) {words : List Word}
    (hm : s.mismatch cap words = true) :
    s.fillCapture p acc t cap words
      = (s.filled p acc t a r o cap words true).raise (mismatchReport p cap words) := by
  have ht : (s.raise (mismatchReport p cap words)).timebase = s.timebase := by rw [s.raise_work _]
  rw [← State.raise_filled, ← State.serve_filled hd hw hr, ht]
  simp only [State.fillCapture, hm, Bool.or_true, if_true, Taken.recordOf_eq hrec]

end

theorem exec_captureBurstCompletes {s : State} {g : Granted} {w : WordAccess} {p : Port}
    {acc : Access} {t : Taken} {cap : Capture} (ans : Answer) (h : s.LastOnBus g w)
    (hop : g.op = .capture p) (hf : s.captureFlight p = some (acc, t, cap)) :
    exec (.captureBurstCompletes ans) s
      = .next ((((s.answered w ans).fillCapture p acc t cap
          (gotAfter g w (s.answerData w ans))).clearIfLoading p).chooseAfter ans.grantFirst) := by
  simp only [exec, execCaptureBurstCompletes, h.lastAccess, hop, hf]
  rfl

theorem State.clearIfLoading_raised {s : State} {p : Port} (ss : List Session) (cs : List Capture)
    (hl : s.isLoading = true) (o : PortOut) (x : Report) :
    ((s.ended p ss cs o).raise x).clearIfLoading p
      = ((s.ended p [] [] o).raise x).abandonAtLoad p ss := by
  have hl' : (s.raise x).isLoading = true :=
    (State.isLoading_of_part (s.raise_part x)).trans hl
  rw [← State.raise_ended, ← State.raise_ended]
  exact State.clearIfLoading_ended ss cs hl' o

theorem State.answered_suspect (s : State) (w : WordAccess) (ans : Answer) :
    (s.answered w ans).suspect = s.suspect := by
  rw [State.answered, State.answer_frame]

/-- Settles O35: torn before a mismatch before sound, outside LOADING and in it. -/
theorem captureIsVerifiedAndServed : Obligations.CaptureIsVerifiedAndServed := by
  intro ans s g w p acc t a r o b cap h hop hc hrec hcap hdir hd words isTorn differs cap' caps
    after mismatch freed sess rep gone
  have hkey := Taken.recordOf_eq hrec
  obtain ⟨hw, hr, -⟩ := Engine.captureOf_key hcap
  have hf : s.captureFlight p = some (acc, t, cap) :=
    State.captureFlight_iff.mpr ⟨hc, by rw [hkey]; exact hcap⟩
  have hwords : gotAfter g w (s.answerData w ans) = words := by rw [gotAfter_eq, if_pos hdir]
  have htorn : (s.answered w ans).foundTorn cap.base cap.window = true ↔ isTorn := by
    rw [State.foundTorn_iff, State.answered_torn, State.answered_suspect, hw]
  have hmis : (s.answered w ans).mismatch cap words = true ↔ ¬ isTorn ∧ differs := by
    rw [State.mismatch_iff, htorn, State.answered_spec, hw]
  have hrep : mismatchReport p cap words = mismatch := by rw [mismatchReport, hw]
  have hafter : ∀ bad, (s.answered w ans).filled p acc t a r o cap words bad = after bad := by
    intro bad
    have ht : (s.answered w ans).timebase = s.timebase := by
      rw [State.answered, State.answer_frame]
    rw [State.filled, State.answered_engines, ht]
  have hexec := exec_captureBurstCompletes ans h hop hf
  rw [hwords] at hexec
  have hfillTorn : isTorn → (s.answered w ans).fillCapture p acc t cap words = after true :=
    fun hT => by
      rw [← hafter]
      exact State.fillCapture_sound hd hrec hw hr
        (Bool.eq_false_iff.mpr fun hm => (hmis.mp hm).1 hT) (htorn.mpr hT)
  have hfillDiffers : ¬ isTorn → differs →
      (s.answered w ans).fillCapture p acc t cap words = (after true).raise mismatch :=
    fun hT hD => by
      rw [← hafter, ← hrep]
      exact State.fillCapture_mismatch hd hrec hw hr (hmis.mpr ⟨hT, hD⟩)
  have hfillSound : ¬ isTorn → ¬ differs →
      (s.answered w ans).fillCapture p acc t cap words = after false :=
    fun hT hD => by
      rw [← hafter]
      exact State.fillCapture_sound hd hrec hw hr
        (Bool.eq_false_iff.mpr fun hm => hD (hmis.mp hm).2) (Bool.eq_false_iff.mpr (mt htorn.mp hT))
  rw [hexec]
  constructor
  · intro hl
    have hl' : (s.answered w ans).isLoading = false := by rw [State.answered_isLoading, hl]
    have hraise : ((after true).raise mismatch).isLoading = false :=
      (State.isLoading_of_part ((after true).raise_part mismatch)).trans hl'
    refine ⟨fun hT => ?_, fun hT hD => ?_, fun hT hD => ?_⟩
    · rw [hfillTorn hT, State.clearIfLoading_of_not_loading (s := after true) p hl']
    · rw [hfillDiffers hT hD, State.clearIfLoading_of_not_loading p hraise]
    · rw [hfillSound hT hD, State.clearIfLoading_of_not_loading (s := after false) p hl']
  · intro hl
    have hl' : (s.answered w ans).isLoading = true := by rw [State.answered_isLoading, hl]
    refine ⟨fun hT => ?_, fun hT hD => ?_, fun hT hD => ?_⟩
    · rw [hfillTorn hT]
      exact congrArg (fun x : State => Host.Outcome.next (x.chooseAfter ans.grantFirst))
        (State.clearIfLoading_ended _ _ hl' _)
    · rw [hfillDiffers hT hD]
      exact congrArg (fun x : State => Host.Outcome.next (x.chooseAfter ans.grantFirst))
        (State.clearIfLoading_raised _ _ hl' _ _)
    · rw [hfillSound hT hD]
      exact congrArg (fun x : State => Host.Outcome.next (x.chooseAfter ans.grantFirst))
        (State.clearIfLoading_ended _ _ hl' _)

end Sys2Proof.Machine
end

section
/-! PROOFS. Settles O53: an access leaves the other port alone, and the choice beside it can do no more
than grant a claim that waits. -/

namespace Sys2Proof.Machine

/-! ## What the choice beside an access can leave -/

/-- A waiting claim may have been granted and the Notice Unit may have chosen: the tables stand, an engine
with no waiting claim stands, a ring may have one more lost, and the rest is as it was. -/
structure State.Beside (s t : State) : Prop where
  tables : ∀ q, (t.engines.get q).sessions = (s.engines.get q).sessions
    ∧ (t.engines.get q).captures = (s.engines.get q).captures
  rested : ∀ q, (s.engines.get q).waiting = false → t.engines.get q = s.engines.get q
  rings : ∀ q, ∃ plost, t.rings.get q = { s.rings.get q with plost := plost }
  frame : t = { s with
      engines := t.engines, rings := t.rings, granted := t.granted, pointer := t.pointer,
      loaderClaim := t.loaderClaim, noticeClaim := t.noticeClaim, freeCount := t.freeCount }

theorem State.Beside.trans {s t u : State} (h : s.Beside t) (h' : t.Beside u) : s.Beside u where
  tables q := ⟨(h'.tables q).1.trans (h.tables q).1, (h'.tables q).2.trans (h.tables q).2⟩
  rested q hw := by
    have hst := h.rested q hw
    rw [h'.rested q (by rw [hst]; exact hw), hst]
  rings q := by
    obtain ⟨x, hx⟩ := h.rings q
    obtain ⟨y, hy⟩ := h'.rings q
    exact ⟨y, by rw [hy, hx]⟩
  frame := by
    have h2 := h'.frame
    rw [h.frame] at h2
    exact h2

theorem State.Beside.of_calm {s t : State} (he : t.engines = s.engines) (hr : t.rings = s.rings)
    (hf : t = { s with
      engines := t.engines, rings := t.rings, granted := t.granted, pointer := t.pointer,
      loaderClaim := t.loaderClaim, noticeClaim := t.noticeClaim, freeCount := t.freeCount }) :
    s.Beside t where
  tables q := by rw [he]; exact ⟨rfl, rfl⟩
  rested q _ := by rw [he]
  rings q := ⟨(s.rings.get q).plost, by rw [hr]⟩
  frame := hf

theorem State.chooseNotice_beside (s : State) : s.Beside s.chooseNotice :=
  .of_calm s.chooseNotice_engines (by rw [s.chooseNotice_frame]) (by rw [s.chooseNotice_frame])

/-- The start of a notice burst: only a full ring counts one more lost (R126). -/
theorem State.startNotice_plost (s : State) (c : NoticeClaim) (q : Port) :
    ∃ plost, (s.startNotice c).rings.get q = { s.rings.get q with plost := plost } := by
  have hsame : ∀ t : State, t.rings = s.rings →
      ∃ plost, t.rings.get q = { s.rings.get q with plost := plost } :=
    fun t ht => ⟨(s.rings.get q).plost, by rw [ht]⟩
  cases c with
  | lossReport p =>
    cases hpl : s.ringPlace p with
    | none => exact hsame _ (by rw [State.startNotice_lossReport_none hpl])
    | some pl => exact hsame _ (by rw [State.startNotice_lossReport hpl]; rfl)
  | head p =>
    cases hpl : s.ringPlace p with
    | none => exact hsame _ (by rw [State.startNotice_head_none (.inl hpl)])
    | some pl =>
      cases hq : s.queue with
      | nil => exact hsame _ (by rw [State.startNotice_head_none (.inr hq)])
      | cons e es =>
        by_cases hroom : (s.rings.get p).hasRoom pl.cap.entries = true
        · exact hsame _ (by rw [State.startNotice_entry hpl hq hroom]; rfl)
        · rw [State.startNotice_fullRing hpl hq hroom]
          change ∃ plost, ((s.setRing p (s.rings.get p).plusLost).rings).get q = _
          rw [State.setRing_rings]
          by_cases hqp : q = p
          · subst hqp
            exact ⟨_, Both.get_set_self _ _ _⟩
          · exact ⟨(s.rings.get q).plost, Both.get_set_ne _ _ hqp⟩

theorem State.Grants.plost {s t : State} (h : s.Grants t) (q : Port) :
    ∃ plost, t.rings.get q = { s.rings.get q with plost := plost } := by
  have hsame : t.rings = s.rings →
      ∃ plost, t.rings.get q = { s.rings.get q with plost := plost } :=
    fun ht => ⟨(s.rings.get q).plost, by rw [ht]⟩
  cases h with
  | nothing => exact hsame rfl
  | @loader c => exact hsame (State.startLoader_rings { s with loaderClaim := none } c)
  | @port p acc tk job x => exact hsame (State.startPort_rings { s with pointer := x } p)
  | @notice c x => exact State.startNotice_plost { s with pointer := x, noticeClaim := none } c q

theorem State.Grants.beside {s t : State} (h : s.Grants t) : s.Beside t := by
  have hframe : t = { s with
      engines := t.engines, rings := t.rings, granted := t.granted, pointer := t.pointer,
      loaderClaim := t.loaderClaim, noticeClaim := t.noticeClaim, freeCount := t.freeCount } := by
    have hw := h.work
    unfold State.ArbiterWork at hw
    rw [hw]
  obtain he | ⟨p, acc, tk, job, hw, he⟩ := h.engines
  · exact ⟨fun q => by rw [he]; exact ⟨rfl, rfl⟩, fun q _ => by rw [he], h.plost, hframe⟩
  · have hself : t.engines.get p = { s.engines.get p with estate := .inMemory acc tk job .granted } := by
      rw [he, State.setEState_engines, Both.get_set_self]
    have hother : ∀ q, q ≠ p → t.engines.get q = s.engines.get q := fun q hq => by
      rw [he, State.setEState_engines, Both.get_set_ne _ _ hq]
    refine ⟨fun q => ?_, fun q hq => hother q fun hqp => ?_, h.plost, hframe⟩
    · by_cases hqp : q = p
      · rw [hqp, hself]
        exact ⟨rfl, rfl⟩
      · rw [hother q hqp]
        exact ⟨rfl, rfl⟩
    · rw [hqp, Engine.waiting_iff.mpr ⟨acc, tk, job, hw⟩] at hq
      cases hq

theorem State.chooseBeside_beside (s : State) (p : Port) : s.Beside (s.chooseBeside p) := by
  have hfree : s.Beside { s with freeCount := s.freeCount + 1 } := .of_calm rfl rfl rfl
  obtain h | ⟨v, hv | hv, h⟩ := s.chooseBeside_cases p <;> rw [h]
  · exact s.chooseNotice_beside
  · exact (hfree.trans hv.beside).trans v.chooseNotice_beside
  · exact ((hfree.trans (State.chooseNotice_beside _)).trans hv.beside).trans v.chooseNotice_beside

/-- While an operation is carried nothing is granted beside an access. -/
theorem State.chooseBeside_of_granted {s : State} (p : Port) (h : s.granted.isSome = true) :
    s.chooseBeside p = s.chooseNotice :=
  State.chooseBeside_alone fun ⟨hg, _⟩ => by
    rw [hg] at h
    cases h

/-! ## What the access itself leaves -/

theorem State.raiseAll_pins (s : State) (l : List Report) : (s.raiseAll l).pins = s.pins := by
  induction l generalizing s with
  | nil => rfl
  | cons r rs ih => exact (ih (s.raise r)).trans (s.raise_pins r)

/-- An access that arrives leaves the other port's engine and pins. -/
theorem State.arriving_other (s : State) (p : Port) (l : Lines) {q : Port} (hq : q ≠ p) :
    (received (s.arriving p l)).engines.get q = s.engines.get q
      ∧ (received (s.arriving p l)).pins.get q = s.pins.get q := by
  have hpins : ∀ x : Pins, (s.setPins p x).engines.get q = s.engines.get q
      ∧ (s.setPins p x).pins.get q = s.pins.get q :=
    fun x => ⟨rfl, Both.get_set_ne _ _ hq⟩
  rw [received, State.raiseAll_engines, State.raiseAll_pins]
  unfold State.arriving
  dsimp only
  split
  · obtain ⟨he, hp⟩ := (State.taking_takes _ p (l.latch s.timebase)).other hq
    rw [he, hp]
    exact hpins _
  · exact hpins _

/-- Settles O53: the access changes its own port, the queue and the lost counts; the choice beside it may
grant. -/
theorem accessLeavesTheOtherPort : Obligations.AccessLeavesTheOtherPort := by
  intro c p l s t hc ht
  obtain rfl : s.present p l = t := by
    rw [exec_access hc s] at ht
    exact Host.Outcome.next.inj ht
  have hne : p.other ≠ p := by cases p <;> nofun
  obtain ⟨hother, hpins⟩ := s.arriving_other p l hne
  have hwork : s.PortWork (received (s.arriving p l)) :=
    (s.arriving_work p l).trans (State.raiseAll_work _ _)
  have hgranted : (received (s.arriving p l)).granted = s.granted := by
    rw [hwork]
  have hb := (received (s.arriving p l)).chooseBeside_beside p
  refine ⟨received (s.arriving p l), rfl, hother, hpins, ?_, hwork, hb.tables, ?_, fun hg => ?_,
    hb.rings, hb.frame⟩
  · exact s.kept_calm.raiseAll _ (s.kept_calm.arriving p l (.of_eq rfl))
  · rintro (hg | hw)
    · rw [← hother, State.present, State.chooseBeside_of_granted p (by rw [hgranted]; exact hg),
        State.chooseNotice_engines]
    · rw [← hother]
      exact hb.rested _ (by rw [hother]; exact hw)
  · rw [State.present, State.chooseBeside_of_granted p (by rw [hgranted]; exact hg),
      State.chooseNotice_frame]
    exact hgranted

end Sys2Proof.Machine
end

section
/-! PROOFS. Settles O46: a held access taken afresh is an access taken now, but for its arrival time. -/

namespace Sys2Proof.Machine

/-! ## The arrival time and the strobe of an access in flight -/

/-- The access with another arrival time. -/
def Access.since (acc : Access) (arrived : Time) : Access := { acc with arrived := arrived }

section
variable (acc : Access) (a : Time)

@[simp] theorem Access.since_dir : (acc.since a).dir = acc.dir := rfl
@[simp] theorem Access.since_be : (acc.since a).be = acc.be := rfl
@[simp] theorem Access.since_data : (acc.since a).data = acc.data := rfl

end

/-- The state with the access in flight at a port dated from another arrival, and its strobe replaced. -/
def State.redated (s : State) (p : Port) (arrived : Time) (strobe : Option Lines) : State :=
  s.withPort p { s.engines.get p with estate := (s.engines.get p).estate.since arrived }
    { strobe := strobe, out := (s.pins.get p).out }

/-- A state and the notices raised, the state redated. -/
def redatedPair (p : Port) (arrived : Time) (strobe : Option Lines) (x : State × List Report) :
    State × List Report := (x.1.redated p arrived strobe, x.2)

section
variable (s : State) (p : Port) (a : Time) (st : Option Lines)

theorem State.redated_sessions :
    ((s.redated p a st).engines.get p).sessions = (s.engines.get p).sessions := by
  rw [State.redated, State.withPort_engines, Both.get_set_self]

theorem State.redated_captures :
    ((s.redated p a st).engines.get p).captures = (s.engines.get p).captures := by
  rw [State.redated, State.withPort_engines, Both.get_set_self]

theorem State.redated_sessionOf (w r : Nat) :
    ((s.redated p a st).engines.get p).sessionOf w r = (s.engines.get p).sessionOf w r := by
  rw [Engine.sessionOf, State.redated_sessions, Engine.sessionOf]

theorem State.redated_captureOf (w r : Nat) :
    ((s.redated p a st).engines.get p).captureOf w r = (s.engines.get p).captureOf w r := by
  rw [Engine.captureOf, State.redated_captures, Engine.captureOf]

theorem State.redated_spec (w : Nat) : (s.redated p a st).spec w = s.spec w := rfl
theorem State.redated_rings : (s.redated p a st).rings = s.rings := rfl
theorem State.redated_straps : (s.redated p a st).straps = s.straps := rfl
theorem State.redated_timebase : (s.redated p a st).timebase = s.timebase := rfl
theorem State.redated_part : (s.redated p a st).part = s.part := rfl

/-! ## What redating commutes with -/

theorem State.setSessions_redated (t : List Session) :
    (s.redated p a st).setSessions p t = (s.setSessions p t).redated p a st := by
  simp [State.setSessions_eq, State.redated]

theorem State.setCaptures_redated (t : List Capture) :
    (s.redated p a st).setCaptures p t = (s.setCaptures p t).redated p a st := by
  simp [State.setCaptures_eq, State.redated]

theorem State.setRing_redated (q : Port) (r : Ring) :
    (s.redated p a st).setRing q r = (s.setRing q r).redated p a st := rfl

theorem State.endAccess_redated (o : PortOut) :
    (s.redated p a st).endAccess p o = (s.endAccess p o).redated p a st := by
  simp [State.endAccess_eq, State.redated, EState.since]

theorem State.setEState_redated (e : EState) :
    (s.redated p a st).setEState p (e.since a) = (s.setEState p e).redated p a st := by
  simp [State.setEState_eq, State.redated]

theorem State.claim_redated (acc : Access) (t : Option Taken) (job : Job) :
    (s.redated p a st).claim p (acc.since a) t job = (s.claim p acc t job).redated p a st :=
  s.setEState_redated p a st (.inMemory acc t job .waiting)

theorem State.raise_redated (r : Report) :
    (s.redated p a st).raise r = (s.raise r).redated p a st := by
  rw [State.redated, State.redated, State.raise_withPort, State.raise_engines, State.raise_pins]

theorem State.raiseAll_redated (l : List Report) :
    (s.redated p a st).raiseAll l = (s.raiseAll l).redated p a st := by
  induction l generalizing s with
  | nil => rfl
  | cons r rs ih => rw [State.raiseAll, State.raise_redated, ih, State.raiseAll]

/-! ## The handling of each class (R13 to R20) -/

variable (acc : Access) (t : Taken)

theorem State.refuse_redated (cls : Class) (why : RefusalReason) :
    (s.redated p a st).refuse p (acc.since a) cls why
      = redatedPair p a st (s.refuse p acc cls why) :=
  congrArg (fun v : State => (v, [refusedReport p acc cls why])) (s.endAccess_redated p a st _)

theorem State.claimSingle_redated :
    (s.redated p a st).claimSingle p (acc.since a) (some t)
      = redatedPair p a st (s.claimSingle p acc (some t)) :=
  congrArg (fun v : State => (v, [])) (s.claim_redated p a st acc (some t) _)

theorem State.takeImage_redated (m : RecordMap) (word : ImageWord) :
    (s.redated p a st).takeImage m p (acc.since a) t word
      = redatedPair p a st (s.takeImage m p acc t word) := by
  have hsingle := s.claimSingle_redated p a st acc t
  unfold State.takeImage
  cases hd : acc.dir with
  | read => simpa only [Access.since_dir, hd] using hsingle
  | write =>
    cases word with
    | status => simpa only [Access.since_dir, hd] using hsingle
    | request =>
      simp only [Access.since_dir, Access.since_be, Access.since_data, hd, State.redated_straps]
      cases requestLength s.straps.imgOrd acc.be acc.data with
      | none => exact hsingle
      | some n =>
        dsimp only
        split
        · exact congrArg (fun v : State => (v, [])) (s.claim_redated p a st acc (some t) _)
        · exact s.refuse_redated p a st acc t.cls _

theorem State.takeConsumer_redated (q : Port) :
    (s.redated p a st).takeConsumer p (acc.since a) t q
      = redatedPair p a st (s.takeConsumer p acc t q) := by
  unfold State.takeConsumer
  rw [State.redated_rings]
  split
  · dsimp only
    split
    · rw [State.setRing_redated, State.claim_redated]
      rfl
    · exact congrArg (fun v : State => (v, [badConsumerReport p q acc (lowHalf t.data)]))
        (s.endAccess_redated p a st _)
  · exact s.claimSingle_redated p a st acc t

theorem State.takeRing_redated (q : Port) (role : RingRole) :
    (s.redated p a st).takeRing p (acc.since a) t q role
      = redatedPair p a st (s.takeRing p acc t q role) := by
  have hsingle := s.claimSingle_redated p a st acc t
  unfold State.takeRing
  cases hd : acc.dir with
  | read => simpa only [Access.since_dir, hd] using hsingle
  | write =>
    simp only [Access.since_dir, hd]
    cases role with
    | consumer => exact s.takeConsumer_redated p a st acc t q
    | _ => exact s.refuse_redated p a st acc t.cls _

theorem State.takePlain_redated (m : RecordMap) (w : Nat) :
    (s.redated p a st).takePlain m p (acc.since a) t w
      = redatedPair p a st (s.takePlain m p acc t w) := by
  unfold State.takePlain
  split
  next h => exact (s.claimSingle_redated p a st acc t).trans (congrArg _ (if_pos h).symm)
  next h => exact (s.refuse_redated p a st acc t.cls _).trans (congrArg _ (if_neg h).symm)

theorem State.takeUnmapped_redated (m : RecordMap) :
    (s.redated p a st).takeUnmapped m p (acc.since a) t
      = redatedPair p a st (s.takeUnmapped m p acc t) := by
  have hsingle := s.claimSingle_redated p a st acc t
  have hrefuse := s.refuse_redated p a st acc t.cls .unmapped
  unfold State.takeUnmapped
  cases (m.settings.get p).unmapped with
  | pass => exact hsingle
  | refuse => exact hrefuse
  | readOnly =>
    cases hd : acc.dir with
    | read => simpa only [Access.since_dir, hd] using hsingle
    | write => simpa only [Access.since_dir, hd] using hrefuse

/-! ## The tables (R38 to R42, R50, R79 to R81, R86, R87) -/

theorem State.endReady_redated (w : Word) :
    (s.redated p a st).endReady p (acc.since a) w = (s.endReady p acc w).redated p a st :=
  s.endAccess_redated p a st _

theorem State.stageWrite_redated (ses : Session) (o : Nat) :
    (s.redated p a st).stageWrite p (acc.since a) t ses o
      = (s.stageWrite p acc t ses o).redated p a st := by
  unfold State.stageWrite
  dsimp only
  rw [State.redated_spec, State.redated_sessions]
  split
  · rw [State.setSessions_redated, State.claim_redated]
  · rw [State.setSessions_redated, State.endReady_redated]

theorem State.roomForSession_redated :
    (s.redated p a st).roomForSession p = redatedPair p a st (s.roomForSession p) := by
  unfold State.roomForSession
  rw [State.redated_sessions]
  split
  · rfl
  · cases (s.engines.get p).sessions with
    | nil => rfl
    | cons ses rest =>
      dsimp only
      rw [State.setSessions_redated]
      rfl

theorem State.freeCapture_redated (w r : Nat) :
    (s.redated p a st).freeCapture p w r = (s.freeCapture p w r).redated p a st := by
  rw [State.freeCapture, State.redated_captures, State.setCaptures_redated, State.freeCapture]

theorem State.openSession_redated (w r o : Nat) (b : WAddr) :
    (s.redated p a st).openSession p (acc.since a) t w r o b
      = redatedPair p a st (s.openSession p acc t w r o b) := by
  unfold State.openSession
  dsimp only
  rw [State.freeCapture_redated, State.roomForSession_redated, State.redated_spec]
  dsimp only [redatedPair]
  rw [State.redated_sessions, State.redated_timebase]
  split
  · rw [State.setSessions_redated, State.claim_redated]
  · rw [State.setSessions_redated, State.stageWrite_redated]

theorem State.writeRecord_redated (w r o : Nat) (b : WAddr) :
    (s.redated p a st).writeRecord p (acc.since a) t w r o b
      = redatedPair p a st (s.writeRecord p acc t w r o b) := by
  unfold State.writeRecord
  rw [State.redated_sessionOf]
  split
  · exact congrArg (fun v : State => (v, [])) (s.stageWrite_redated p a st acc t _ o)
  · exact s.openSession_redated p a st acc t w r o b

theorem State.ownRead_redated (ses : Session) (o : Nat) :
    (s.redated p a st).ownRead p (acc.since a) t ses o
      = (s.ownRead p acc t ses o).redated p a st := by
  unfold State.ownRead
  dsimp only
  split
  · exact s.endReady_redated p a st acc _
  · exact s.claim_redated p a st acc (some t) _

theorem State.serve_redated (c : Capture) (l : Live) (o : Nat) :
    (s.redated p a st).serve p (acc.since a) t c l o
      = (s.serve p acc t c l o).redated p a st := by
  unfold State.serve
  dsimp only
  rw [State.redated_captures, State.setCaptures_redated]
  exact State.endAccess_redated _ p a st _

theorem State.takeCapture_redated (w r : Nat) (b : WAddr) :
    (s.redated p a st).takeCapture p (acc.since a) t w r b
      = (s.takeCapture p acc t w r b).redated p a st := by
  unfold State.takeCapture
  dsimp only
  rw [State.redated_captures, State.setCaptures_redated, State.claim_redated]

theorem State.readRecord_redated (w r o : Nat) (b : WAddr) :
    (s.redated p a st).readRecord p (acc.since a) t w r o b
      = (s.readRecord p acc t w r o b).redated p a st := by
  have htake := s.takeCapture_redated p a st acc t w r b
  unfold State.readRecord
  rw [State.redated_sessionOf, State.redated_captureOf]
  split
  · exact s.ownRead_redated p a st acc t _ o
  · split
    · exact htake
    · split
      · exact htake
      · split
        · exact htake
        · exact s.serve_redated p a st acc t _ _ o

theorem State.takeRecord_redated (m : RecordMap) (w r o : Nat) (b : WAddr) (role : WordRole) :
    (s.redated p a st).takeRecord m p (acc.since a) t w r o b role
      = redatedPair p a st (s.takeRecord m p acc t w r o b role) := by
  unfold State.takeRecord
  cases hd : acc.dir with
  | read =>
    simp only [Access.since_dir, hd]
    split
    · exact congrArg (fun v : State => (v, [])) (s.readRecord_redated p a st acc t w r o b)
    · exact s.refuse_redated p a st acc t.cls _
  | write =>
    simp only [Access.since_dir, hd]
    split
    · cases role with
      | stamp => exact s.refuse_redated p a st acc t.cls _
      | check => exact s.refuse_redated p a st acc t.cls _
      | data _ => exact s.writeRecord_redated p a st acc t w r o b
    · exact s.refuse_redated p a st acc t.cls _

theorem State.takeClassed_redated (m : RecordMap) :
    (s.redated p a st).takeClassed m p (acc.since a) t
      = redatedPair p a st (s.takeClassed m p acc t) := by
  unfold State.takeClassed
  split
  · exact s.takeImage_redated p a st acc t m _
  · exact s.takeRing_redated p a st acc t _ _
  · exact s.takeRecord_redated p a st acc t m _ _ _ _ _
  · exact s.takePlain_redated p a st acc t m _
  · exact s.takeUnmapped_redated p a st acc t m

theorem State.takeBare_redated :
    (s.redated p a st).takeBare p (acc.since a) = (s.takeBare p acc).redated p a st := by
  have hrequest : (s.redated p a st).bareRequest (acc.since a) = s.bareRequest acc := rfl
  unfold State.takeBare
  rw [hrequest]
  split
  · exact s.claim_redated p a st acc none _
  · exact s.claim_redated p a st acc none _

/-- An access taken with another arrival time leaves the same but for that time. -/
theorem State.taking_redated :
    (s.redated p a st).taking p (acc.since a) = redatedPair p a st (s.taking p acc) := by
  unfold State.taking
  rw [State.redated_part]
  split
  · rw [State.takeBare_redated]
    rfl
  · exact congrArg (fun v : State => (v, [])) (s.setEState_redated p a st (.held acc))
  next m hm =>
    unfold State.takeActive
    by_cases hbe : acc.be = 0
    · rw [if_pos hbe, if_pos (show (acc.since a).be = 0 from hbe), State.endReady_redated]
      rfl
    · rw [if_neg hbe, if_neg (show ¬ (acc.since a).be = 0 from hbe)]
      exact s.takeClassed_redated p a st acc _ m

end

/-! ## A held access at the end of a load (R10, R160, R170) -/

section
variable {s : State} {p : Port} {acc : Access}

theorem State.retake_late (he : (s.engines.get p).estate = .held acc)
    (h : s.holdLimit ≤ age s.timebase acc.arrived) :
    s.retake p = (s.endFault p acc).raise (holdReport p acc Config.noWindow false) := by
  simp only [State.retake, he, (s.holdDue_iff acc).mpr h, if_true]

theorem State.retake_in_time (he : (s.engines.get p).estate = .held acc)
    (h : ¬ s.holdLimit ≤ age s.timebase acc.arrived) :
    s.retake p = (s.setEState p .idle).takeAccess p acc := by
  have hdue : s.holdDue acc = false := Bool.eq_false_iff.mpr (mt (s.holdDue_iff acc).mp h)
  simp only [State.retake, he, hdue, Bool.false_eq_true, if_false]

theorem State.retakeAfter_held (he : (s.engines.get p).estate = .held acc) (limit : Nat) :
    s.retakeAfter limit p
      = if limit ≤ age s.timebase acc.arrived then
          (s.endFault p acc).raise (holdReport p acc Config.noWindow false)
        else s.retake p := by
  simp only [State.retakeAfter, he]

end

/-- Settles O46: past the limit, in BARE, in ACTIVE by the table of refusals, and against an arrival
now. -/
theorem heldAccessIsTakenAfresh : Obligations.HeldAccessIsTakenAfresh := by
  intro p acc s he e l late
  have hfault : (s.endFault p acc).raise (holdReport p acc Config.noWindow false)
      = (s.ended p e.sessions e.captures (.fault (dataOn acc.dir 0))).raise
          { kind := .holdTimeout, port := some p, detail := 0, window := 31, address := acc.addr,
            value := 0, dest := Both.only p } := by
    rw [State.endFault_eq_ended]
    rfl
  have hidle : s.setEState p .idle = s.withPort p { e with estate := .idle } (s.pins.get p) :=
    s.setEState_eq p .idle
  refine ⟨fun hlate => ?_, fun hlate hbare => ?_, ?active, ?arrival, fun limit =>
    ⟨fun h => ?_, fun h => ?_⟩⟩
  case active =>
    intro m hlate hm hbe
    have htake : s.retake p
        = received ((s.setEState p .idle).takeClassed m p (l.latch acc.arrived)
            (s.takenOf m p l)) := by
      have htaking : (s.setEState p .idle).taking p acc
          = (s.setEState p .idle).takeClassed m p (l.latch acc.arrived) (s.takenOf m p l) := by
        rw [State.taking, State.setEState_part, hm]
        exact if_neg hbe
      rw [State.retake_in_time he hlate, State.takeAccess, htaking]
    refine ⟨fun why href => ?_, fun href hs => ?_⟩
    · rw [htake, State.takeClassed_of_refused (s := s.setEState p .idle) (t := s.takenOf m p l) href,
        State.refuse, hidle, State.endFault_eq]
      simp only [State.withPort_engines, State.withPort_pins, Both.get_set_self,
        State.withPort_withPort]
      rfl
    · rw [htake, State.takeClassed_of_carried (s := s.setEState p .idle) (t := s.takenOf m p l) href hs,
        State.claimSingle, hidle, State.claim_eq]
      simp only [State.withPort_engines, State.withPort_pins, Both.get_set_self,
        State.withPort_withPort]
      rfl
  case arrival =>
    intro c hlate _ hreset hc
    let v := s.withPort p { e with estate := .idle } { strobe := none, out := (s.pins.get p).out }
    have hacc : v.Accepts p := by
      refine ⟨?_, hreset, ?_⟩
      · rw [State.withPort_pins, Both.get_set_self]
      · rw [State.withPort_engines, Both.get_set_self]
    have harriving : v.arriving p l = (v.presenting p l).taking p (l.latch s.timebase) :=
      if_pos ⟨Option.isNone_iff_eq_none.mpr hacc.1, hacc.2⟩
    have hback : (v.presenting p l).redated p acc.arrived (s.pins.get p).strobe
        = s.setEState p .idle := by
      rw [hidle, State.redated, State.presenting_engines, State.presenting_pins,
        State.withPort_presenting, State.withPort_withPort, State.withPort_engines,
        State.withPort_pins, Both.get_set_self, Both.get_set_self]
      rfl
    refine ⟨received (v.arriving p l), exec_access hc v, ?_⟩
    have hsince : acc = (l.latch s.timebase).since acc.arrived := rfl
    have htaking : (s.setEState p .idle).taking p acc
        = redatedPair p acc.arrived (s.pins.get p).strobe (v.arriving p l) := by
      rw [harriving, ← State.taking_redated, hback]
      rfl
    rw [State.retake_in_time he hlate, State.takeAccess, htaking]
    exact State.raiseAll_redated _ p _ _ _
  · rw [State.retake_late he hlate, hfault]
  · rw [State.retake_in_time he hlate]
    refine (State.takeAccess_of_bare (s := s.setEState p .idle) p l acc.arrived hbare).trans ?_
    rw [hidle, State.setEState_eq]
    simp only [State.withPort_engines, State.withPort_pins, Both.get_set_self,
      State.withPort_withPort]
    rfl
  · rw [State.retakeAfter_held he, if_neg (Nat.not_le.mpr h)]
  · rw [State.retakeAfter_held he, if_pos h, hfault]

end Sys2Proof.Machine
end

section
/-! PROOFS. Settles O44: the two ends of a load, each in the terms of the rule that gives it. -/

namespace Sys2Proof.Machine

/-! ## What follows the release of the deferred notices (R159, R160) -/

/-- The loader's notice and the held accesses of both ports, in the order of the command's operand. -/
def State.endingWith (v : State) (rep : Report) (limit : Nat) (order : EndOrder) : State :=
  let one := fun x : State => x.retakeAfter limit order.port
  let two := fun x : State => x.retakeAfter limit order.port.other
  let g1 := fun x : State => x.grantIf order.grantAfterFirst
  let g2 := fun x : State => x.grantIf order.grantAfterSecond
  match order.notice with
  | .first => (two (g2 (one (g1 (v.raise rep).chooseNotice)).chooseNotice)).chooseNotice
  | .between => (two (g2 ((g1 (one v)).raise rep).chooseNotice)).chooseNotice
  | .last => ((g2 (two (g1 (one v)))).raise rep).chooseNotice

theorem State.endLoad_eq (s : State) (ld : Load) (order : EndOrder) :
    s.endLoad ld order
      = s.releaseDeferred.endingWith (loadNotice s.releaseDeferred ld.reqPort) ld.holdLimit
          order := by
  unfold State.endLoad State.endingWith
  cases order.notice <;> rfl

/-- The release changes the queue, the rings and the deferred lost counts alone. -/
theorem loadNotice_releaseDeferred (s : State) (p : Port) :
    loadNotice s.releaseDeferred p = loadNotice s p := by
  cases hm : s.map with
  | none => rw [State.releaseDeferred_of_no_map hm]; rfl
  | some m => rw [State.releaseDeferred_of_map hm]; rfl

theorem loadNotice_done {s : State} {m : RecordMap} (p : Port) (hr : s.result = .done)
    (hm : s.map = some m) :
    loadNotice s p
      = { kind := .loadDone, port := some p, detail := BitVec.ofNat 8 m.windows.length,
          window := 31, address := s.straps.imageBase, value := s.tornDisc.setWidth 32,
          dest := { a := true, b := true } } := by
  simp only [loadNotice, hr, hm]
  rfl

theorem loadNotice_failed {s : State} (p : Port) (hr : s.result ≠ .done) :
    loadNotice s p
      = { kind := .loadFailed, port := some p, detail := s.result.code, window := 31,
          address := s.straps.imageBase, value := 0, dest := { a := true, b := true } } := by
  unfold loadNotice
  split
  next h => exact absurd h hr
  next => rfl

theorem Load.holdLimit_eq (ld : Load) :
    ld.holdLimit = match ld.from? with | none => 5000 | some m => m.holdLimit.toNat := by
  unfold Load.holdLimit
  cases ld.from? <;> rfl

theorem Load.fromState_eq (ld : Load) :
    ld.fromState = match ld.from? with | none => .bare | some m => .active m := by
  unfold Load.fromState
  cases ld.from? <;> rfl

/-! ## DONE (R157) -/

section
variable {s : State} {g : Granted} {w : WordAccess} {ld : Load}

theorem exec_doneWriteCompletes {cand : RecordMap} (ans : Answer) (order : EndOrder)
    (h : s.LastOnBus g w) (hop : g.op = .status) (hl : s.part = .loading ld)
    (hph : ld.phase = .installing cand) :
    exec (.doneWriteCompletes ans order) s
      = .next (((s.answered w ans).install cand).endLoad ld order) := by
  simp only [exec, execDoneWriteCompletes, h.lastAccess, hop, hl, hph]
  rfl

end

theorem freshRing_eq (r : Option RingPlace) :
    freshRing r = match r with
      | none => Ring.unconfigured
      | some pl =>
        ({ prod := 0, cons := 0, lost := 0, plost := 0, lrep := false,
           shadow := List.replicate pl.cap.entries none, watch := none } : Ring) := by
  cases r <;> rfl

/-- What a load installs, in the terms of the state the memory answered. -/
theorem State.install_eq {s t : State} (cand : RecordMap) (htorn : t.torn = s.torn)
    (hseq : t.seq = s.seq) :
    t.install cand
      = { t with
          part := .active cand
          tornDisc := BitVec.ofNat 8 s.torn.length
          torn := []
          suspect := List.replicate cand.windows.length false
          rings := { a := freshRing cand.rings.a, b := freshRing cand.rings.b }
          seq := s.seq + 1
          result := .done
          attn := { a := false, b := false } } := by
  rw [← htorn, ← hseq]
  rfl

theorem ofNat_setWidth_byte (n : Nat) :
    (BitVec.ofNat 8 n).setWidth 32 = BitVec.ofNat 32 (n % 256) := by
  apply BitVec.eq_of_toNat_eq
  simp

/-! ## The end of a failed load (R158) -/

section
variable {s : State} {g : Granted} {w : WordAccess} {ld : Load}

theorem exec_failureStatusWriteEnds {how : WriteEnd} {t : State} (order : EndOrder)
    (hl : s.part = .loading ld) (hph : ld.phase = .reporting) (ht : s.reportingEnd how = some t) :
    exec (.failureStatusWriteEnds how order) s
      = .next ((t.grantIf order.grantAtEnd).endFailed ld order) := by
  simp only [exec, execFailureStatusWriteEnds, hl, hph, ht]

theorem State.reportingEnd_completes (ans : Answer) (h : s.LastOnBus g w) (hop : g.op = .status) :
    s.reportingEnd (.completes ans) = some (s.answered w ans) := by
  simp only [State.reportingEnd, h.lastAccess, hop, if_true]
  rfl

theorem State.reportingEnd_expires {rest : List WordAccess} (h : s.Overdue g w rest)
    (hop : g.op = .status) (hr : s.result = .memory) :
    s.reportingEnd .expires = some (s.expired w) := by
  simp only [State.reportingEnd, h.memoryDue, hop, hr, and_self, if_true]
  rfl

/-- The expiry of the write of MEMORY ends the load as well (log entry 20). -/
theorem exec_memoryLimitExpires_memory (order : EndOrder) (h : s.Overdue g w [])
    (hop : g.op = .status) (hl : s.part = .loading ld) (hph : ld.phase = .reporting)
    (hr : s.result = .memory) :
    exec (.memoryLimitExpires order) s
      = .next (((s.expired w).grantIf order.grantAtEnd).endFailed ld order) := by
  have hloader : (s.expired w).expireLoader order
      = ((s.expired w).grantIf order.grantAtEnd).endFailed ld order := by
    simp only [State.expireLoader, (s.expired_part w).trans hl, hph,
      (s.expired_result w).trans hr, if_true]
  rw [exec_memoryLimitExpires order h, State.expire, hop]
  dsimp only
  rw [hloader, State.chooseNotice_of_settled (s := State.endFailed _ ld order)
    (State.endLoad_settled _ ld order)]

end

/-- What the end of a load's last write leaves of the loader's record. -/
theorem State.endFailed_eq {s t : State} (ld : Load) (order : EndOrder)
    (hr : t.result = s.result) (hst : t.straps = s.straps) (hfail : s.result ≠ .done) :
    t.endFailed ld order
      = ({ t with part := ld.fromState }.releaseDeferred).endingWith
          { kind := .loadFailed, port := some ld.reqPort, detail := s.result.code, window := 31,
            address := s.straps.imageBase, value := 0, dest := { a := true, b := true } }
          ld.holdLimit order := by
  have hnotice : loadNotice { t with part := ld.fromState } ld.reqPort
      = { kind := .loadFailed, port := some ld.reqPort, detail := s.result.code, window := 31,
          address := s.straps.imageBase, value := 0, dest := { a := true, b := true } } := by
    rw [loadNotice_failed (s := { t with part := ld.fromState }) ld.reqPort
      (by dsimp only; rw [hr]; exact hfail)]
    dsimp only
    rw [hr, hst]
  rw [State.endFailed, State.endLoad_eq, loadNotice_releaseDeferred, hnotice]

theorem State.grantIf_result (s : State) (b : Bool) : (s.grantIf b).result = s.result := by
  rw [s.grantIf_work b]

theorem State.answered_result (s : State) (w : WordAccess) (ans : Answer) :
    (s.answered w ans).result = s.result := by
  rw [State.answered, State.answer_frame]

/-- Settles O44: the end with DONE, and the end in FROM by completion and by expiry. -/
theorem loadEndsInActiveOrInFrom : Obligations.LoadEndsInActiveOrInFrom := by
  constructor
  · intro ans order s g w ld cand h hop hl hph ring v rep limit one two g1 g2
    have hring : ∀ q, freshRing (cand.rings.get q) = ring q := fun q => freshRing_eq _
    have hv : ((s.answered w ans).install cand).releaseDeferred = v := by
      rw [State.install_eq cand (s.answered_torn w ans) (s.answered_seq w ans)]
      exact congrArg State.releaseDeferred (congrArg (fun r : Both Ring =>
        { s.answered w ans with
          part := .active cand
          tornDisc := BitVec.ofNat 8 s.torn.length
          torn := []
          suspect := List.replicate cand.windows.length false
          rings := r
          seq := s.seq + 1
          result := .done
          attn := { a := false, b := false } })
        (congrArg₂ Both.mk (hring .a) (hring .b)))
    have hrep : loadNotice ((s.answered w ans).install cand) ld.reqPort = rep := by
      rw [loadNotice_done (m := cand) ld.reqPort rfl rfl,
        State.install_eq cand (s.answered_torn w ans) (s.answered_seq w ans)]
      dsimp only
      rw [s.answered_straps, ofNat_setWidth_byte]
    have hlimit : ld.holdLimit = limit := ld.holdLimit_eq
    have hexec : exec (.doneWriteCompletes ans order) s = .next (v.endingWith rep limit order) := by
      rw [exec_doneWriteCompletes ans order h hop hl hph, State.endLoad_eq,
        loadNotice_releaseDeferred, hv, hrep, hlimit]
    exact hexec
  · intro how order s g w ld hl hph hop v rep limit one two g0 g1 g2 after
    have hend : ∀ base : State, base.result = s.result → base.straps = s.straps →
        s.result ≠ .done →
        (base.grantIf order.grantAtEnd).endFailed ld order = after (v (g0 base)) := by
      intro base hr hst hfail
      rw [State.endFailed_eq (s := s) (t := base.grantIf order.grantAtEnd) ld order
        ((base.grantIf_result _).trans hr) ((base.grantIf_straps_seq _).1.trans hst) hfail,
        Load.holdLimit_eq, Load.fromState_eq]
      rfl
    constructor
    · rintro ans rfl h hfail
      rw [exec_failureStatusWriteEnds order hl hph (State.reportingEnd_completes ans h hop),
        hend _ (s.answered_result w ans) (s.answered_straps w ans) hfail]
    · rintro rfl h hr
      have hfail : s.result ≠ .done := by rw [hr]; exact nofun
      have hbase := hend _ (s.expired_result w) (s.expired_straps_seq w).1 hfail
      constructor
      · rw [exec_failureStatusWriteEnds order hl hph (State.reportingEnd_expires h hop hr), hbase]
      · rw [exec_memoryLimitExpires_memory order h hop hl hph hr, hbase]

end Sys2Proof.Machine
end

section
/-! PROOFS. Settles O39: what happens at the two ports as LOADING is entered, the events of that moment,
and the order in which the notices are received. -/

namespace Sys2Proof.Machine

/-! ## The order of the notices (R119) -/

section
variable {α : Type} (turns : List Source) (xs ys zs : List α)

theorem interleave_perm : (interleave turns xs ys zs).Perm (xs ++ ys ++ zs) := by
  fun_induction interleave turns xs ys zs with
  | case1 => exact .refl _
  | case2 ts x xs ys zs ih => exact ih.cons x
  | case3 ts xs y ys zs ih =>
    refine (ih.cons y).trans ?_
    rw [List.append_assoc, List.append_assoc, List.cons_append]
    exact List.perm_middle.symm
  | case4 ts xs ys z zs ih => exact (ih.cons z).trans List.perm_middle.symm
  | case5 => assumption

theorem sublist_interleave_first : xs.Sublist (interleave turns xs ys zs) := by
  fun_induction interleave turns xs ys zs with
  | case1 xs ys zs => exact (List.sublist_append_left xs ys).trans (List.sublist_append_left _ zs)
  | case2 ts x xs ys zs ih => exact ih.cons_cons x
  | case3 ts xs y ys zs ih => exact ih.cons y
  | case4 ts xs ys z zs ih => exact ih.cons z
  | case5 => assumption

theorem sublist_interleave_second : ys.Sublist (interleave turns xs ys zs) := by
  fun_induction interleave turns xs ys zs with
  | case1 xs ys zs => exact (List.sublist_append_right xs ys).trans (List.sublist_append_left _ zs)
  | case2 ts x xs ys zs ih => exact ih.cons x
  | case3 ts xs y ys zs ih => exact ih.cons_cons y
  | case4 ts xs ys z zs ih => exact ih.cons z
  | case5 => assumption

theorem sublist_interleave_third : zs.Sublist (interleave turns xs ys zs) := by
  fun_induction interleave turns xs ys zs with
  | case1 xs ys zs => exact List.sublist_append_right (xs ++ ys) zs
  | case2 ts x xs ys zs ih => exact ih.cons x
  | case3 ts xs y ys zs ih => exact ih.cons y
  | case4 ts xs ys z zs ih => exact ih.cons_cons z
  | case5 => assumption

end

/-! ## The events of that moment (R136, R143, R170) -/

/-- The event is the expiry that the command is. -/
def EventExpiry (x : EntryEvent) (c : Instr) : Prop :=
  match x with
  | .hold q => c = .holdLimitExpires q
  | .session q a r => c = .sessionLimitExpires q a r
  | .access _ _ _ _ _ => False

/-- The event is the arrival that the command, an access row, is. -/
def EventAccess (x : EntryEvent) (c : Instr) : Prop :=
  match x with
  | .access q addr dir be data =>
    accessOf c = some (q, { addr := addr, dir := dir, be := be, data := data })
  | _ => False

/-- An expiry leaves what its command leaves, but for the notice. -/
theorem expireNow_or {s : State} {c : Instr} (x : Option (State × Report))
    (hc : exec c s = .next (s.expireNow x)) :
    ((x.elim (s, []) fun y => (y.1, [y.2])).2 = [] ∧ (x.elim (s, []) fun y => (y.1, [y.2])).1 = s
        ∧ exec c s = .next s)
      ∨ ∃ rep, (x.elim (s, []) fun y => (y.1, [y.2])).2 = [rep]
          ∧ exec c s
            = .next (((x.elim (s, []) fun y => (y.1, [y.2])).1.raise rep).chooseNotice) := by
  cases x with
  | none => exact .inl ⟨rfl, rfl, hc⟩
  | some y => exact .inr ⟨y.2, rfl, hc⟩

theorem State.eventNow_expiry {s : State} {x : EntryEvent} {c : Instr} (h : EventExpiry x c) :
    ((s.eventNow x).2 = [] ∧ (s.eventNow x).1 = s ∧ exec c s = .next s)
      ∨ ∃ rep, (s.eventNow x).2 = [rep]
          ∧ exec c s = .next ((s.eventNow x).1.raise rep).chooseNotice := by
  cases x with
  | hold q =>
    obtain rfl : c = .holdLimitExpires q := h
    exact expireNow_or (s.holdExpiry q) exec_holdLimitExpires
  | session q a r =>
    obtain rfl : c = .sessionLimitExpires q a r := h
    exact expireNow_or (s.sessionExpiry q a r) exec_sessionLimitExpires
  | access q addr dir be data => exact absurd h not_false

theorem State.eventNow_access {s : State} {x : EntryEvent} {c : Instr} (h : EventAccess x c) :
    exec c s
      = .next (((s.eventNow x).2.foldl State.raise (s.eventNow x).1).chooseBeside (eventPort x)) := by
  cases x with
  | hold q => exact absurd h not_false
  | session q a r => exact absurd h not_false
  | access q addr dir be data =>
    rw [exec_access h, State.present, received, State.raiseAll_eq]
    rfl

theorem Awaiting.ahead_eq (x : Awaiting) (p : Port) (l : List Report) :
    x.ahead p l
      = { engines := x.engines.set p
            ((l.filter fun r => decide (r.kind ≠ .badConsumer)) ++ x.engines.get p)
          noticeUnit := (l.filter fun r => decide (r.kind = .badConsumer)) ++ x.noticeUnit } := by
  have hother : (fun r : Report => !r.ofNoticeUnit) = fun r => decide (r.kind ≠ .badConsumer) := by
    funext r
    rw [Report.ofNoticeUnit, decide_not]
  rw [Awaiting.ahead, hother]
  rfl

/-! ## What LOADING does at each port (R57, R94, R102, R132) -/

/-- A port's engine as LOADING leaves it. -/
def Engine.emptied (e : Engine) : Engine :=
  match e.estate with
  | .inMemory a tk j .granted =>
    { estate := .inMemory a tk j .granted,
      sessions := e.sessions.filter fun y => decide (y.state ≠ .open),
      captures := e.captures.filter fun y => y.live.isNone }
  | .inMemory a _ _ .waiting => { estate := .held a, sessions := [], captures := [] }
  | st => { estate := st, sessions := [], captures := [] }

/-- A port's watched write for a ring is withdrawn by LOADING. -/
def Engine.Withdraws (e : Engine) (r : Port) : Prop :=
  ∃ a tk k, e.estate = .inMemory a tk (.single (.watched r k)) .waiting

/-- The rings once LOADING has withdrawn a port's watched write. -/
def Engine.unwatched (e : Engine) (rings : Both Ring) : Both Ring :=
  match e.estate with
  | .inMemory _ _ (.single (.watched r _)) .waiting =>
    rings.set r { rings.get r with watch := none }
  | _ => rings

theorem Engine.unwatched_get (e : Engine) (rings : Both Ring) (r : Port) :
    (e.Withdraws r → (e.unwatched rings).get r = { rings.get r with watch := none })
      ∧ (¬ e.Withdraws r → (e.unwatched rings).get r = rings.get r) := by
  constructor
  · rintro ⟨a, tk, k, he⟩
    simp only [Engine.unwatched, he, Both.get_set_self]
  · intro h
    unfold Engine.unwatched
    split
    next a tk q k he =>
      refine Both.get_set_ne _ _ fun hrq => h ?_
      exact ⟨a, tk, k, hrq ▸ he⟩
    · rfl

theorem State.unwatch_other (s : State) {job : Job}
    (h : ∀ q n, job ≠ .single (.watched q n)) : s.unwatch job = s := by
  unfold State.unwatch
  split
  next q n => exact absurd rfl (h q n)
  · rfl

/-- A withdrawn claim: its access is held, and a watched write's WATCH emptied. -/
theorem State.withdraw_waiting {s : State} {p : Port} {acc : Access} {t : Option Taken} {job : Job}
    (he : (s.engines.get p).estate = .inMemory acc t job .waiting) :
    s.withdraw p
      = ({ s with rings := (s.engines.get p).unwatched s.rings }).setEState p (.held acc) := by
  have hunwatch : s.unwatch job = { s with rings := (s.engines.get p).unwatched s.rings } := by
    unfold Engine.unwatched
    rw [he]
    cases job with
    | single purpose => cases purpose <;> rfl
    | stampRead => rfl
    | commit => rfl
    | capture => rfl
  simp only [State.withdraw, he, hunwatch]

/-- What LOADING does at a port: its engine, and WATCH of a withdrawn watched write. -/
theorem State.emptyForLoad_eq (s : State) (p : Port) :
    s.emptyForLoad p
      = { s with
          engines := s.engines.set p (s.engines.get p).emptied
          rings := (s.engines.get p).unwatched s.rings } := by
  have hfilter : (fun ses : Session => !ses.isOpen) = fun y => decide (y.state ≠ .open) := by
    funext ses
    rw [Session.isOpen, decide_not]
  cases he : (s.engines.get p).estate with
  | idle =>
    have hc : (s.engines.get p).carried = false := by simp only [Engine.carried, he]
    rw [State.emptyForLoad_of_not_carried hc, State.withdraw_of_idle he, State.emptied_eq]
    simp only [Engine.emptied, Engine.unwatched, he, State.withPort, Both.set_get]
  | held acc =>
    have hc : (s.engines.get p).carried = false := by simp only [Engine.carried, he]
    have hw : s.withdraw p = s := by simp only [State.withdraw, he]
    rw [State.emptyForLoad_of_not_carried hc, hw, State.emptied_eq]
    simp only [Engine.emptied, Engine.unwatched, he, State.withPort, Both.set_get]
  | inMemory acc t job c =>
    cases c with
    | waiting =>
      have hc : (s.engines.get p).carried = false := by simp only [Engine.carried, he]
      rw [State.emptyForLoad_of_not_carried hc, State.withdraw_waiting he, State.emptied_eq,
        State.setEState_eq]
      simp only [Engine.emptied, he, State.withPort, Both.set_get, Both.get_set_self, Both.set_set]
    | granted =>
      have hc : (s.engines.get p).carried = true := by simp only [Engine.carried, he]
      have hrings : (s.engines.get p).unwatched s.rings = s.rings := by
        simp only [Engine.unwatched, he]
      simp only [State.emptyForLoad, hc, if_true, State.setSessions_eq, State.setCaptures_eq,
        State.withPort_withPort, State.withPort_engines, State.withPort_pins, Both.get_set_self,
        hrings, hfilter]
      simp only [Engine.emptied, he, State.withPort, Both.set_get]

/-- What LOADING does at both ports. -/
theorem State.emptyForLoad_both (s : State) :
    (s.emptyForLoad .a).emptyForLoad .b
      = { s with
          engines := { a := s.engines.a.emptied, b := s.engines.b.emptied }
          rings := s.engines.b.unwatched (s.engines.a.unwatched s.rings) } := by
  rw [State.emptyForLoad_eq, State.emptyForLoad_eq]
  rfl

theorem Engine.unwatched_both (x y : Engine) (rings : Both Ring) (r : Port) :
    (x.Withdraws r ∨ y.Withdraws r →
        (y.unwatched (x.unwatched rings)).get r = { rings.get r with watch := none })
      ∧ (¬ (x.Withdraws r ∨ y.Withdraws r) →
        (y.unwatched (x.unwatched rings)).get r = rings.get r) := by
  obtain ⟨hx, hx'⟩ := x.unwatched_get rings r
  obtain ⟨hy, hy'⟩ := y.unwatched_get (x.unwatched rings) r
  by_cases h1 : x.Withdraws r
  · refine ⟨fun _ => ?_, fun h => absurd (.inl h1) h⟩
    by_cases h2 : y.Withdraws r
    · rw [hy h2, hx h1]
    · rw [hy' h2, hx h1]
  · by_cases h2 : y.Withdraws r
    · exact ⟨fun _ => by rw [hy h2, hx' h1], fun h => absurd (.inr h2) h⟩
    · exact ⟨fun h => (h.elim h1 h2).elim, fun _ => by rw [hy' h2, hx' h1]⟩

/-! ## The load begins (R142 to R145, R147) -/

section
variable {s : State} {g : Granted} {w : WordAccess} {p : Port} {acc : Access} {t : Option Taken}
  {n : Nat}

theorem exec_requestWriteCompletes (ans : Answer) (gf : Bool) (entry : EntryOrder)
    (h : s.LastOnBus g w) (hop : g.op = .single p)
    (hc : s.Carries p acc t (.single (.request n))) (hd : acc.dir = .write) :
    exec (.requestWriteCompletes ans gf entry) s
      = (let v := (s.answered w ans).ended p (s.engines.get p).sessions
          (s.engines.get p).captures (.ready none)
        if s.isLoading = true then .next v
        else .next ((v.grantIf ans.grantFirst).beginLoad p n gf entry).chooseNotice) := by
  have hend : (s.answer w ans).endOp.endReady p acc 0
      = (s.answered w ans).ended p (s.engines.get p).sessions (s.engines.get p).captures
          (.ready none) := by
    refine (s.answered_endReady w ans p acc 0).trans ?_
    rw [hd]
    rfl
  simp only [exec, execRequestWriteCompletes, h.lastAccess, hop, hc.inFlight, hend]

end

/-- The IN_PROGRESS status word. -/
theorem inProgress_word (seq : BitVec 8) :
    statusValue .inProgress 0 seq 0 = (0 : BitVec 8) ++ seq ++ (0 : BitVec 16) := by
  apply BitVec.eq_of_toNat_eq
  have hcode : LoadResult.inProgress.code = 0 := rfl
  simp only [statusValue, toNat_append_eq, hcode, BitVec.ofNat_eq_ofNat, BitVec.toNat_zero]
  omega

theorem State.enterLoading_eq {s u : State} (p : Port) (n : Nat) (hm : u.map = s.map)
    (hst : u.straps = s.straps) (hseq : u.seq = s.seq) :
    u.enterLoading p n
      = { u with
          part := .loading { from? := s.map, phase := .starting, reqPort := p, reqN := n }
          result := .inProgress
          loaderClaim := some (.status
            (inOrder s.straps.imgOrd ((0 : BitVec 8) ++ s.seq ++ (0 : BitVec 16)))) } := by
  rw [← hm, ← hst, ← hseq, ← inProgress_word]
  rfl

theorem Engine.abandonedAtLoad_eq (e : Engine) :
    e.abandonedAtLoad
      = match e.estate with
        | .inMemory _ _ _ .granted => e.sessions.filter fun y => decide (y.state = .open)
        | _ => (e.sessions.filter fun y => decide (y.state = .open))
            ++ e.sessions.filter fun y => decide (y.state ≠ .open) := by
  split
  next he =>
    have hc : e.carried = true := by simp only [Engine.carried, he]
    simp only [Engine.abandonedAtLoad, hc, if_true]
    rfl
  next hn =>
    refine Engine.abandonedAtLoad_of_not_carried ?_
    unfold Engine.carried
    split
    next a tk j he => exact absurd he (hn a tk j)
    · rfl

/-- What a load takes over from the state in which it begins stays through the events and the grant. -/
theorem State.takeEvents_grantIf_kept {s : State} (es : List EntryEvent) (b : Bool) :
    ((s.takeEvents es).1.grantIf b).map = s.map ∧ ((s.takeEvents es).1.grantIf b).straps = s.straps
      ∧ ((s.takeEvents es).1.grantIf b).seq = s.seq := by
  have hgrant := (s.takeEvents es).1.grantIf_work b
  have hevents := s.takeEvents_work es
  refine ⟨?_, ?_, ?_⟩
  · rw [State.map_of_part (show ((s.takeEvents es).1.grantIf b).part = (s.takeEvents es).1.part by
      rw [hgrant]), State.map_of_part (show (s.takeEvents es).1.part = s.part by rw [hevents])]
  · rw [show ((s.takeEvents es).1.grantIf b).straps = (s.takeEvents es).1.straps by rw [hgrant]]
    rw [hevents]
  · rw [show ((s.takeEvents es).1.grantIf b).seq = (s.takeEvents es).1.seq by rw [hgrant]]
    rw [hevents]

/-- Settles O39: the load that begins, the write during one, the events, and the order of the notices. -/
theorem requestWriteBeginsALoad : Obligations.RequestWriteBeginsALoad := by
  refine ⟨?begins, ?during, ?events, fun turns xs ys zs =>
    ⟨interleave_perm turns xs ys zs, sublist_interleave_first turns xs ys zs,
      sublist_interleave_second turns xs ys zs, sublist_interleave_third turns xs ys zs⟩⟩
  case begins =>
    intro ans gf entry s g w p acc t n h hop hc hl hd v x u opens others rep reports e withdrawn
    have hengine : ∀ q, (u.engines.get q).emptied = e q := by
      intro q
      cases hest : (u.engines.get q).estate with
      | idle => simp only [Engine.emptied, e, hest]
      | held a => simp only [Engine.emptied, e, hest]
      | inMemory a tk j c =>
        cases c with
        | waiting => simp only [Engine.emptied, e, hest]
        | granted => simp only [Engine.emptied, e, hest, others]
    have hreports : ∀ q, x.2.engines.get q ++ u.loadReports q = reports q := by
      intro q
      refine congrArg (fun l : List Session => x.2.engines.get q ++ l.map (rep q)) ?_
      exact (u.engines.get q).abandonedAtLoad_eq
    have hwithdrawn : ∀ r, withdrawn r
        ↔ (u.engines.get .a).Withdraws r ∨ (u.engines.get .b).Withdraws r := by
      intro r
      constructor
      · rintro ⟨q, hq⟩
        cases q with
        | a => exact .inl hq
        | b => exact .inr hq
      · rintro (hq | hq)
        · exact ⟨.a, hq⟩
        · exact ⟨.b, hq⟩
    refine ⟨(u.engines.get .b).unwatched ((u.engines.get .a).unwatched u.rings), fun r => ?_, ?_⟩
    · rw [hwithdrawn]
      exact Engine.unwatched_both _ _ _ r
    · obtain ⟨hm, hst, hseq⟩ := State.takeEvents_grantIf_kept
        (s := v.grantIf ans.grantFirst) entry.events gf
      have hgrant := v.grantIf_work ans.grantFirst
      have hvpart : (v.grantIf ans.grantFirst).part = s.part := by
        rw [hgrant]
        exact s.answered_part w ans
      have henter := State.enterLoading_eq (s := s) (u := u) p n (hm.trans (State.map_of_part hvpart))
        (hst.trans (by rw [hgrant]; exact s.answered_straps w ans))
        (hseq.trans (by rw [hgrant]; exact s.answered_seq w ans))
      have hbegin : (v.grantIf ans.grantFirst).beginLoad p n gf entry
          = (((u.enterLoading p n).emptyForLoad .a).emptyForLoad .b).raiseAll
              (interleave entry.turns (reports .a) (reports .b) x.2.noticeUnit) := by
        rw [← hreports, ← hreports]
        rfl
      rw [exec_requestWriteCompletes ans gf entry h hop hc hd]
      dsimp only
      rw [if_neg (by rw [hl]; exact Bool.false_ne_true)]
      refine congrArg (fun y : State => Host.Outcome.next y.chooseNotice) (hbegin.trans ?_)
      rw [State.raiseAll_eq, State.emptyForLoad_both, henter, ← hengine, ← hengine]
      rfl
  case during =>
    intro ans gf entry s g w p acc t n h hop hc hl hd
    rw [exec_requestWriteCompletes ans gf entry h hop hc hd]
    exact if_pos hl
  case events =>
    intro s x xs q expiry access
    refine ⟨rfl, (s.eventNow x).1, (s.eventNow x).2, ?_, fun c hc => ?_, fun c hc => ?_⟩
    · rw [State.takeEvents_cons, Awaiting.ahead_eq]
      cases x <;> rfl
    · refine State.eventNow_expiry (x := x) ?_
      cases x with
      | hold p => exact hc
      | session p a r => exact hc
      | access p addr dir be data => exact hc
    · have hacc : EventAccess x c := by
        cases x with
        | hold p => exact hc
        | session p a r => exact hc
        | access p addr dir be data => exact hc
      rw [State.eventNow_access hacc]
      cases x <;> rfl

end Sys2Proof.Machine
end
